-- ==== Sys2Proof/Word.lean ====
section
/-! DEFINITION. The word and the byte of crc_table_generator (R8, R9 of 00_scope.md: every value is unsigned, bit 0 is
the least significant bit). Every register, every command word and every table entry is carried in a 64-bit word; what a
narrower register holds is a word whose upper bits are 0 (log entry 7). -/

namespace Sys2Proof

/-- A value of the host port: 64 bits (R60, R62). -/
abbrev Word := BitVec 64

/-- A message byte, or the index of a table entry (R37, R91). -/
abbrev Byte := BitVec 8

end Sys2Proof
end

