-- ==== Sys2Proof/Config.lean ====
section
/-! DEFINITION. What an implementation of the block fixes (W_MAX and BASE, the "Open parameters" of 92_eei_decisions.md)
and the free values (93_implementation_defined.md, treatment "any value"). An opaque constant has no body: nothing can be
proved of its value, so a claim holds whatever it is. -/

namespace Sys2Proof

/-- The widest CRC register the block supports, W_MAX (R5): one of eight values. -/
inductive WMax where
  | w8 | w16 | w24 | w32 | w40 | w48 | w56 | w64
deriving DecidableEq, Repr

/-- W_MAX in bits (R5). -/
def WMax.bits : WMax → Nat
  | .w8 => 8
  | .w16 => 16
  | .w24 => 24
  | .w32 => 32
  | .w40 => 40
  | .w48 => 48
  | .w56 => 56
  | .w64 => 64

/-- "The reference configuration of this spec takes `W_MAX = 64`" (R5; log entry 5). -/
def Config.referenceWMax : WMax := .w64

/-- BASE is OPEN (R6, D4): the number of the 4 KiB page at which the platform places the block (log entry 8). -/
opaque Config.basePage : Nat

/-- BASE, "a multiple of 0x1000" (R6). -/
def Config.base : Nat := 0x1000 * Config.basePage

/-- What TABLE holds where nothing was written since the last reset or ABORT of a generation: "unknown values: a draw, never zero" (R271, I1).
The first argument numbers the draw (`State.draws`), the second is the index of the entry (log entry 9). -/
opaque Config.tableDraw : Nat → Byte → Word

/-- What a register holds after power was removed: "any value until reset" (I24). The first argument numbers the draw,
the second the register (log entry 12). -/
opaque Config.lostDraw : Nat → Nat → Word

end Sys2Proof
end

