-- ==== Sys2Proof/Syntax.lean ====
section
/-! DEFINITION. The seven commands of the block (R93, spec/opcode_table.json), its ten registers (10_state.md section 2)
and the statements of the host assembly (R97, R98). Meaning is given in Sys2Proof/Machine. -/

namespace Sys2Proof

/-- A command: one constructor per row of spec/opcode_table.json. The byte operand B is CRC_UPDATE's alone (R91). -/
inductive Instr where
  | nop
  | generate
  | abort
  | ack
  | crcInit
  | crcUpdate (b : Byte)
  | crcFinal
deriving DecidableEq, Repr

/-- The registers of the host-visible map (10_state.md section 2). -/
inductive Reg where
  | id | cmd | cfg | poly | init | xorout | status | irqEn | result | acc
deriving DecidableEq, Repr

/-- A statement of the host assembly: every one is one bus access (R97). Numbers stand as they are written; WellFormed
says which fit. -/
inductive Stmt where
  | wr (reg : Reg) (v : Nat)
  | rd (reg : Reg)
  | rdt (i : Nat)
  | command (i : Instr)
deriving DecidableEq, Repr

/-- A line of a host program: a statement, or a pseudo-instruction (R98). -/
inductive HostOp where
  | stmt (st : Stmt)
  | poll (reg : Reg) (mask val : Nat)
  | waitIdle
  | config (w poly init xorout refin refout : Nat)
  | crcBytes (bs : List Nat)
  | crcString (cs : List Char)
deriving DecidableEq, Repr

end Sys2Proof
end

