-- ==== Sys2Proof/WellFormed.lean ====
section
/-! DEFINITION. Which terms of the syntax the spec gives a meaning to. A command of type Instr is always well formed: its
only operand is a byte by its type (R91). The numbers of the host assembly are checked here: an operand that does not fit
its place in the access (R97, R98) is refused. -/

namespace Sys2Proof

/-- Every command is well formed: B is "an unsigned byte 0..255" by its type (R91). -/
def Instr.wellFormed : Instr → Bool
  | .nop => true
  | .generate => true
  | .abort => true
  | .ack => true
  | .crcInit => true
  | .crcUpdate _ => true
  | .crcFinal => true

/-- A number that fits the 64 data bits of an access (R60). -/
def fitsWord (v : Nat) : Bool := decide (v < 2 ^ 64)

/-- A statement's operands fit the access it stands for: `RDT i` has i = 0..255, written data has 64 bits (R97). -/
def Stmt.wellFormed : Stmt → Bool
  | .wr _ v => fitsWord v
  | .rd _ => true
  | .rdt i => decide (i < 256)
  | .command i => i.wellFormed

/-- A pseudo-instruction's operands fit the statements it expands to (R98): CONFIG's width fits CFG[7:0] and its two
flags are bits (R23), a message byte is 0..255 (R91), a string is ASCII. -/
def HostOp.wellFormed : HostOp → Bool
  | .stmt st => st.wellFormed
  | .poll _ mask val => fitsWord mask && fitsWord val
  | .waitIdle => true
  | .config w poly init xorout refin refout =>
    decide (w < 256) && fitsWord poly && fitsWord init && fitsWord xorout && decide (refin < 2) && decide (refout < 2)
  | .crcBytes bs => bs.all fun b => decide (b < 256)
  | .crcString cs => cs.all fun c => decide (c.toNat < 128)

end Sys2Proof
end

