-- ==== Sys2Proof/Decode.lean ====
section
/-! DEFINITION. The command word CMDW (R90), its decoder (R94), the opcode map as match and mask rows (R93), and the
encoder written from the same map. Decoding is total on 64-bit words and rejects by name (R95). -/

namespace Sys2Proof

/-- OPC = CMD[7:0] (R90). -/
def opcField (w : Word) : Byte := w.extractLsb' 0 8

/-- B = CMD[15:8] (R90, R91). -/
def byteField (w : Word) : Byte := w.extractLsb' 8 8

/-- RSV = CMD[63:16] (R90). -/
def rsvField (w : Word) : BitVec 48 := w.extractLsb' 16 48

/-- Why a word is no command (R95). -/
inductive Illegal where
  /-- RSV[63:16] is not 0. -/
  | reservedBits
  /-- B is not 0 and the opcode is not CRC_UPDATE's. -/
  | operandNotZero
  /-- OPC is one of 0x07 to 0xFF. -/
  | unassignedOpcode
deriving DecidableEq, Repr

/-- What the decoder answers: the command, or ILLEGAL with its reason (R94). -/
inductive Decoded where
  | command (i : Instr)
  | illegal (why : Illegal)
deriving DecidableEq, Repr

/-- The command of an opcode whose B must be 0 (R93, R94). -/
def decodeOpcode (opc : Byte) : Decoded :=
  if opc = 0x00 then .command .nop
  else if opc = 0x01 then .command .generate
  else if opc = 0x02 then .command .abort
  else if opc = 0x03 then .command .ack
  else if opc = 0x04 then .command .crcInit
  else if opc = 0x06 then .command .crcFinal
  else .illegal .unassignedOpcode

/-- The total decoding function of R94, its checks in the spec's order. -/
def decode (w : Word) : Decoded :=
  if rsvField w ≠ 0 then .illegal .reservedBits
  else if opcField w = 0x05 then .command (.crcUpdate (byteField w))
  else if byteField w ≠ 0 then .illegal .operandNotZero
  else decodeOpcode (opcField w)

/-- The opcode of a command (R93). -/
def opcodeOf : Instr → Byte
  | .nop => 0x00
  | .generate => 0x01
  | .abort => 0x02
  | .ack => 0x03
  | .crcInit => 0x04
  | .crcUpdate _ => 0x05
  | .crcFinal => 0x06

/-- The byte operand of a command: 0 for every one but CRC_UPDATE (R90). -/
def operandOf : Instr → Byte
  | .nop => 0
  | .generate => 0
  | .abort => 0
  | .ack => 0
  | .crcInit => 0
  | .crcUpdate b => b
  | .crcFinal => 0

/-- The word of a command: `RSV(48) B(8) OPC(8)` (R90). -/
def encode (i : Instr) : Word := (0#48 ++ operandOf i) ++ opcodeOf i

/-- A row of the opcode map: the bits `mask` selects must equal `pattern` (R93). -/
structure OpcodeRow where
  mnemonic : String
  pattern : Word
  mask : Word
deriving DecidableEq, Repr

/-- The match and mask table of R93. -/
def opcodeRows : List OpcodeRow :=
  [ { mnemonic := "NOP", pattern := 0x0000000000000000, mask := 0xFFFFFFFFFFFFFFFF },
    { mnemonic := "GENERATE", pattern := 0x0000000000000001, mask := 0xFFFFFFFFFFFFFFFF },
    { mnemonic := "ABORT", pattern := 0x0000000000000002, mask := 0xFFFFFFFFFFFFFFFF },
    { mnemonic := "ACK", pattern := 0x0000000000000003, mask := 0xFFFFFFFFFFFFFFFF },
    { mnemonic := "CRC_INIT", pattern := 0x0000000000000004, mask := 0xFFFFFFFFFFFFFFFF },
    { mnemonic := "CRC_UPDATE", pattern := 0x0000000000000005, mask := 0xFFFFFFFFFFFF00FF },
    { mnemonic := "CRC_FINAL", pattern := 0x0000000000000006, mask := 0xFFFFFFFFFFFFFFFF } ]

/-- "A word `w` selects mnemonic `m` if and only if `(w & mask_m) = match_m`" (R93). -/
def OpcodeRow.selects (row : OpcodeRow) (w : Word) : Bool := w &&& row.mask == row.pattern

/-- The mnemonic of a command, as the opcode map spells it (R93). -/
def mnemonicOf : Instr → String
  | .nop => "NOP"
  | .generate => "GENERATE"
  | .abort => "ABORT"
  | .ack => "ACK"
  | .crcInit => "CRC_INIT"
  | .crcUpdate _ => "CRC_UPDATE"
  | .crcFinal => "CRC_FINAL"

/-- Byte lane k of a 64-bit value, "bits [8k+7:8k]", at byte address `BASE + offset + k` (R67: little-endian). -/
def byteLane (w : Word) (k : Nat) : Byte := w.extractLsb' (8 * k) 8

/-- The eight byte lanes of a value, the one at the lowest address first (R67). -/
def byteLanes (w : Word) : List Byte := (List.range 8).map (byteLane w)

/-- The value whose byte lanes are given, the one at the lowest address first (R67). -/
def wordOfLanes : List Byte → Word
  | [] => 0
  | b :: rest => (wordOfLanes rest <<< 8) ||| b.setWidth 64

/-- The command word of `nbits` bits `w`, every bit above them 0 (a command is one 64-bit word, R92). -/
def tableWord (nbits w : Nat) : Word := BitVec.ofNat 64 (w % 2 ^ nbits)

/-- What the decoder reads from a word of the opcode table; none where it refuses. A number that does not fit the one
64-bit word of a command is no command (R92). -/
def decodeTableWord (nbits w : Nat) : Option Instr :=
  if w % 2 ^ nbits < 2 ^ 64 then
    match decode (wordOfLanes (byteLanes (tableWord nbits w))) with
    | .command i => some i
    | .illegal _ => none
  else none

end Sys2Proof
end

