-- ==== Sys2Proof/Machine/Divider.lean ====
section
/-! DEFINITION. `polynomial_divider` (40_polynomial_divider.md): the functions of the datapath. A width W is a number of
bits, at most 64. -/

namespace Sys2Proof.Machine

/-- `topBitMask(W) = 1 << (W - 1)` (R120). -/
def topBitMask (W : Nat) : Word := 1#64 <<< (W - 1)

/-- `widthMask(W) = 2^W - 1` (R121). -/
def widthMask (W : Nat) : Word := BitVec.ofNat 64 (2 ^ W - 1)

/-- `divisionStep(r, P, W)`: one bit of modulo-2 division (R122). The top bit tested is bit W-1, never a higher one
(R126). -/
def divisionStep (r P : Word) (W : Nat) : Word :=
  let s := (r <<< 1) &&& widthMask W
  if r &&& topBitMask W ≠ 0 then s ^^^ P else s

/-- `n` division steps in a row (R146 step 3). -/
def divisionSteps : Nat → Word → Word → Nat → Word
  | 0, r, _, _ => r
  | n + 1, r, P, W => divisionStep (divisionSteps n r P W) P W

/-- `rev_n(v)`: bit 0 of v goes to bit n-1, and so on; bits of v at n and above are ignored (R124). -/
def rev : Nat → Word → Word
  | 0, _ => 0
  | n + 1, v => ((v &&& 1#64) <<< n) ||| rev n (v >>> 1)

/-- `rev_8` of a byte (R124 with n = 8). -/
def revByte (b : Byte) : Byte := (rev 8 (b.setWidth 64)).setWidth 8

/-- Step 2 of R146: the byte's bits "in the most-significant position of the register". -/
def placeByte (b : Byte) (W : Nat) : Word := (b.setWidth 64 <<< (W - 8)) &&& widthMask W

/-- A byte, reversed where the flag is set (R146 step 1, R182). -/
def reflectByte (flag : Bool) (b : Byte) : Byte := if flag then revByte b else b

/-- A W-bit value, reversed where the flag is set (R146 step 4, R182, R183). -/
def reflectWord (flag : Bool) (W : Nat) (v : Word) : Word := if flag then rev W v else v

/-- The low `bits` bits of a value: what a register of that width holds (log entry 7). -/
def fit (bits : Nat) (v : Word) : Word := v &&& widthMask bits

end Sys2Proof.Machine
end

