-- ==== Sys2Proof/Machine/State.lean ====
section
/-! DEFINITION. The state of the block (10_state.md), what the host and the platform present to it (R60, R270, R255),
what it answers, and its state after reset (R44). Plain data. -/

namespace Sys2Proof.Machine

/-- The sequencer's phase, PHASE (R35). -/
inductive Phase where
  | idle | load | step | store
deriving DecidableEq, Repr

/-- The names of STATUS.ERR_CODE's values (R240). Codes 8 to 15 are reserved and never raised. -/
inductive ErrCode where
  | none | cfgWidth | cfgPoly | cfgInit | cfgXorout | illegalCmd | busy | notReady
deriving DecidableEq, Repr

/-- A CrcConfig (R12): the pending configuration is CFG, POLY, INIT and XOROUT (R29); the latched one is ACT_* (R36). -/
structure CrcConfig where
  width : BitVec 8
  polynomial : Word
  initialRemainder : Word
  finalXor : Word
  reflectInput : Bool
  reflectOutput : Bool
deriving DecidableEq, Repr

/-- One access as the port presents it: req_write, req_addr, req_size, req_wdata (R60). -/
structure Access where
  write : Bool
  addr : BitVec 12
  size : BitVec 4
  wdata : Word
deriving DecidableEq, Repr

/-- What the outside does in one step of the machine (log entries 1, 11, 12, 13). -/
inductive HostEvent where
  /-- A rising edge of clk with rst_n = 1; `req` is the access presented, none where req_valid = 0 (R275). -/
  | cycle (req : Option Access)
  /-- rst_n is low at this moment, whatever the clock does; an access may be presented (R270). -/
  | resetLow (req : Option Access)
  /-- The clock stands still: no rising edge (R255). -/
  | clockStopped
  /-- The platform removes power (R255). -/
  | powerRemoved
deriving DecidableEq, Repr

/-- The answer to an access: rsp_rdata and rsp_err (R60). `rdata` is none where the spec says nothing of the read data
lines, which is on a write it does not say answers 0 (log entry 3). -/
structure Response where
  rdata : Option Word
  err : Bool
deriving DecidableEq, Repr

/-- The entries of TABLE that were written since its contents were last unspecified: (index, value), the indexes strictly
rising (R37; log entry 10). -/
abbrev Table := List (Nat × Word)

/-- Why a step can stop the machine with a fault. It has no constructor: "every access and every command word has exactly
one outcome" (93_implementation_defined.md), and that outcome is never a stop (log entry 19). -/
inductive Fault where
deriving DecidableEq, Repr

/-- Why an instruction has no meaning. -/
inductive Refusal where
  /-- Raised by an arm of exec whose instruction is not modelled; no arm is (safe: it proves nothing of the hardware). -/
  | notModelled (mnemonic : String)
deriving DecidableEq, Repr

/-- What a step or a command answers. -/
abbrev Result (σ : Type) := Host.Outcome σ Fault Refusal

/-- The state of the block. -/
structure State where
  /-- W_MAX, a parameter: no step changes it (R5). -/
  wMax : WMax
  /-- CFG, POLY, INIT, XOROUT: the pending configuration (R23, R26 to R29). -/
  pending : CrcConfig
  /-- ACT_*: the latched configuration (R36). -/
  act : CrcConfig
  /-- TABLE (R37). -/
  table : Table
  /-- VALID (R40). -/
  valid : Bool
  /-- DONE (R41). -/
  done : Bool
  /-- ERR (R42). -/
  err : Bool
  /-- ERR_CODE (R42, R240; log entry 21). -/
  errCode : BitVec 4
  /-- PHASE (R35). -/
  phase : Phase
  /-- IDX (R35). -/
  idx : BitVec 8
  /-- BITCNT (R35). -/
  bitcnt : BitVec 4
  /-- REM (R34). -/
  rem : Word
  /-- IRQ_EN.DONE_IE (R33). -/
  doneIe : Bool
  /-- IRQ_EN.ERR_IE (R33). -/
  errIe : Bool
  /-- ACC (R38). -/
  acc : Word
  /-- RESULT (R39). -/
  result : Word
  /-- The model's own: power was removed and reset has not been asserted since (R255, I24; log entry 12). -/
  powerLost : Bool
  /-- The model's own: which draw of the free values is the current one (log entry 9). -/
  draws : Nat
  /-- The model's own: what the outside does from now on, oldest first (log entry 1). -/
  inputs : List HostEvent
  /-- The model's own: what the port answered in the step just taken (R60; log entry 2). -/
  rsp : Option Response
deriving DecidableEq, Repr

/-- The reset configuration of CFG, POLY, INIT and XOROUT: width 16, polynomial 0x1021, the rest 0 (R44). -/
def CrcConfig.reset : CrcConfig :=
  { width := 16, polynomial := 0x1021, initialRemainder := 0, finalXor := 0, reflectInput := false, reflectOutput := false }

/-- The reset values of ACT_* (R36, R44). ACT_POLY is W_MAX bits wide: where W_MAX = 8 it keeps the low 8 bits (log
entry 6). -/
def CrcConfig.actReset (m : WMax) : CrcConfig :=
  { CrcConfig.reset with polynomial := BitVec.ofNat 64 (0x1021 % 2 ^ m.bits) }

/-- The state after reset of a block with the given W_MAX (R44, R270): TABLE lists nothing, since its contents are
unspecified (R271). -/
def State.resetWith (m : WMax) : State :=
  { wMax := m, pending := CrcConfig.reset, act := CrcConfig.actReset m, table := [], valid := false, done := false,
    err := false, errCode := 0, phase := .idle, idx := 0, bitcnt := 0, rem := 0, doneIe := false, errIe := false,
    acc := 0, result := 0, powerLost := false, draws := 0, inputs := [], rsp := none }

/-- The machine right after reset, in the reference configuration (R5, R44). -/
def State.reset : State := State.resetWith Config.referenceWMax

end Sys2Proof.Machine
end

