-- ==== Sys2Proof/Machine/Flags.lean ====
section
/-! DEFINITION. The flags that are computed from state (BUSY, irq: R31, R243), the numbers of PHASE and ERR_CODE (R35,
R240), and the STATUS word (R30, R32). -/

namespace Sys2Proof.Machine

/-- PHASE's two bits: IDLE = 0, LOAD = 1, STEP = 2, STORE = 3 (R35). -/
def Phase.bits : Phase → BitVec 2
  | .idle => 0
  | .load => 1
  | .step => 2
  | .store => 3

/-- The phase of two bits (R35). -/
def Phase.ofBits (b : BitVec 2) : Phase :=
  if b = 0 then .idle else if b = 1 then .load else if b = 2 then .step else .store

/-- The code of an error (R240). -/
def ErrCode.code : ErrCode → BitVec 4
  | .none => 0
  | .cfgWidth => 1
  | .cfgPoly => 2
  | .cfgInit => 3
  | .cfgXorout => 4
  | .illegalCmd => 5
  | .busy => 6
  | .notReady => 7

/-- BUSY is `(PHASE != 0)` (R31). -/
def State.busy (s : State) : Bool := s.phase != .idle

/-- `irq = (DONE & DONE_IE) | (ERR & ERR_IE)`, the level of the interrupt output (R243). -/
def State.irq (s : State) : Bool := (s.done && s.doneIe) || (s.err && s.errIe)

/-- The value a read of STATUS returns (R30, R32). -/
def State.statusWord (s : State) : Word :=
  0#34 ++ s.phase.bits ++ s.bitcnt ++ s.idx ++ 0#4 ++ s.errCode ++ 0#3 ++ BitVec.ofBool s.irq ++ BitVec.ofBool s.err ++
    BitVec.ofBool s.done ++ BitVec.ofBool s.valid ++ BitVec.ofBool s.busy

end Sys2Proof.Machine
end

