-- ==== Sys2Proof/Machine/Operands.lean ====
section
/-! DEFINITION. The forms in which data reaches the block and leaves it: the register offsets (10_state.md section 2), the
register data formats (R96) and the addresses of the window (R6, R65). A command's one operand, the byte B, is read by the
decoder (R91). -/

namespace Sys2Proof.Machine

/-- The offset of a register (10_state.md section 2, R97). -/
def regOffset : Reg → BitVec 12
  | .id => 0x000
  | .cmd => 0x008
  | .cfg => 0x010
  | .poly => 0x018
  | .init => 0x020
  | .xorout => 0x028
  | .status => 0x030
  | .irqEn => 0x038
  | .result => 0x040
  | .acc => 0x048

/-- The register at an offset; none where the register region is reserved (R64) or the offset is of another region. -/
def regAt (a : BitVec 12) : Option Reg :=
  if a = 0x000 then some .id
  else if a = 0x008 then some .cmd
  else if a = 0x010 then some .cfg
  else if a = 0x018 then some .poly
  else if a = 0x020 then some .init
  else if a = 0x028 then some .xorout
  else if a = 0x030 then some .status
  else if a = 0x038 then some .irqEn
  else if a = 0x040 then some .result
  else if a = 0x048 then some .acc
  else none

/-- The registers a host write is admitted to: CMD, CFG, POLY, INIT, XOROUT, IRQ_EN; the others are read-only (R64; log entry
20). -/
def registerWritable : Reg → Bool
  | .id => false
  | .cmd => true
  | .cfg => true
  | .poly => true
  | .init => true
  | .xorout => true
  | .status => false
  | .irqEn => true
  | .result => false
  | .acc => false

/-- An offset of the table window, 0x800 to 0xFFF (R61). -/
def inTableWindow (a : BitVec 12) : Bool := decide (0x800 ≤ a.toNat)

/-- The entry an offset of the table window addresses: `(a - 0x800) >> 3` (R65). -/
def tableIndex (a : BitVec 12) : Byte := ((a - 0x800) >>> 3).setWidth 8

/-- The offset of entry i in the window: `0x800 + 8*i` (R65, R97). -/
def tableOffset (i : Byte) : BitVec 12 := 0x800 + (i.setWidth 12 <<< 3)

/-- "An 8-byte access must have `req_addr[2:0] = 0`" (R63). -/
def aligned (a : BitVec 12) : Bool := decide (a.extractLsb' 0 3 = 0)

/-- The constant ID: REV in [7:0], W_MAX in [15:8], 0 in [31:16], 0x4352_4354 in [63:32] (R21). -/
def idWord (m : WMax) : Word := 0x43524354#32 ++ 0#16 ++ BitVec.ofNat 8 m.bits ++ 0x01#8

/-- A read of CFG: `{54'b0, REFOUT, REFIN, WIDTH}` (R23). -/
def cfgWord (C : CrcConfig) : Word := 0#54 ++ BitVec.ofBool C.reflectOutput ++ BitVec.ofBool C.reflectInput ++ C.width

/-- A write to CFG stores data bits [9:0] and ignores the rest (R23, R215). -/
def cfgWrite (v : Word) (C : CrcConfig) : CrcConfig :=
  { C with width := v.extractLsb' 0 8, reflectInput := v.getLsbD 8, reflectOutput := v.getLsbD 9 }

/-- A read of IRQ_EN: `zext_64({ERR_IE, DONE_IE})` (R33). -/
def irqEnWord (s : State) : Word := 0#62 ++ BitVec.ofBool s.errIe ++ BitVec.ofBool s.doneIe

/-- The address of an offset of the block: `BASE + offset` (R6, R216). -/
def addressOf (a : BitVec 12) : Nat := Config.base + a.toNat

/-- The offset of a platform address, where it lies in the block's 4 KiB window (R6, R61). -/
def offsetOf (addr : Nat) : Option (BitVec 12) :=
  if Config.base ≤ addr ∧ addr < Config.base + 0x1000 then some (BitVec.ofNat 12 (addr - Config.base)) else none

end Sys2Proof.Machine
end

