-- ==== Sys2Proof/Machine/Ops.lean ====
section
/-! DEFINITION. The shared operations over the state: TABLE (R37), taking an error and returning from one (R241, R248), the
host's reads and writes of registers (R21 to R39, R215), and the port's answer. -/

namespace Sys2Proof.Machine

/-- The entry stored for an index, none where nothing was written there. -/
def tableFind : Table → Nat → Option Word
  | [], _ => none
  | (k, v) :: rest, i => if k = i then some v else tableFind rest i

/-- A table with one entry written; the indexes stay strictly rising. -/
def tableInsert : Table → Nat → Word → Table
  | [], i, v => [(i, v)]
  | (k, w) :: rest, i, v =>
    if i < k then (i, v) :: (k, w) :: rest
    else if i = k then (i, v) :: rest
    else (k, w) :: tableInsert rest i v

/-- The canonical form of TABLE: the indexes strictly rising and at most 255 (R37; log entry 10). -/
abbrev Table.wf (t : Table) : Prop := t.Pairwise (fun a b => a.1 < b.1) ∧ ∀ c ∈ t, c.1 < 256

/-- What an unlisted entry reads as: a free value of W_MAX bits (R271, I1; log entry 9). -/
def State.tableUnlisted (s : State) (i : Byte) : Word := fit s.wMax.bits (Config.tableDraw s.draws i)

/-- `TABLE[i]` (R10, R37). -/
def State.tableRead (s : State) (i : Byte) : Word := (tableFind s.table i.toNat).getD (s.tableUnlisted i)

/-- `TABLE[i] <- v` (R10, R37). -/
def State.tableWrite (s : State) (i : Byte) (v : Word) : State := { s with table := tableInsert s.table i.toNat v }

/-- TABLE becomes unspecified: every entry is any value, a new draw (I1 of 93_implementation_defined.md; log entry 9). -/
def forgetTable (s : State) : State := { s with table := [], draws := s.draws + 1 }

/-- `raise Error(code)`: taking an error. The first one since the last ACK or reset is recorded, a later one is absorbed;
nothing else happens (R241, R247). -/
def raiseError (c : ErrCode) (s : State) : State :=
  { s with errCode := if s.err then s.errCode else c.code, err := true }

/-- The return from an error: DONE, ERR and ERR_CODE are cleared (R211, R248). -/
def acknowledge (s : State) : State := { s with done := false, err := false, errCode := 0 }

/-- The value a host read of a register returns (R21 to R39, R64). A read of CMD returns 0 (R22). -/
def readRegister (r : Reg) (s : State) : Word :=
  match r with
  | .id => idWord s.wMax
  | .cmd => 0
  | .cfg => cfgWord s.pending
  | .poly => s.pending.polynomial
  | .init => s.pending.initialRemainder
  | .xorout => s.pending.finalXor
  | .status => s.statusWord
  | .irqEn => irqEnWord s
  | .result => s.result
  | .acc => s.acc

/-- The effect of an admitted host write to a register that is not CMD (R215). CMD holds no state of its own: a write to
it is a command (R213). The read-only registers keep their value (R64). -/
def writeRegister (r : Reg) (v : Word) (s : State) : State :=
  match r with
  | .id => s
  | .cmd => s
  | .cfg => { s with pending := cfgWrite v s.pending }
  | .poly => { s with pending := { s.pending with polynomial := v } }
  | .init => { s with pending := { s.pending with initialRemainder := v } }
  | .xorout => { s with pending := { s.pending with finalXor := v } }
  | .status => s
  | .irqEn => { s with doneIe := v.getLsbD 0, errIe := v.getLsbD 1 }
  | .result => s
  | .acc => s

/-- The port answers an access (R60). -/
def respond (r : Response) (s : State) : State := { s with rsp := some r }

/-- No access is answered in this step (log entry 2). -/
def silent (s : State) : State := { s with rsp := none }

/-- A read answered OKAY with its value (R64, R65). -/
def Response.okayRead (v : Word) : Response := { rdata := some v, err := false }

/-- A write answered OKAY (R64; log entry 3). -/
def Response.okayWrite : Response := { rdata := none, err := false }

/-- An access refused with SLVERR and `rsp_rdata = 0`: an access of the wrong size or alignment or at a reserved offset, a
read of the table while VALID = 0, an access during reset (R62 to R65, R270; I10, I11, I13 and I15 of
93_implementation_defined.md). -/
def Response.refused : Response := { rdata := some 0, err := true }

/-- A write refused with SLVERR because its target takes none (R64, R65, I12 of 93_implementation_defined.md; log entry
3). -/
def Response.refusedWrite : Response := { rdata := none, err := true }

/-- Goes on with `f` where a result is a next state. -/
def onNext (r : Result State) (f : State → State) : Result State :=
  match r with
  | .next s => .next (f s)
  | .fault e => .fault e
  | .refused e => .refused e

end Sys2Proof.Machine
end

