-- ==== Sys2Proof/Machine/Bus.lean ====
section
/-! DEFINITION. The host port: the access checks in their order, reads and writes (20_memory.md, 43_control_and_bus.md).
`run` is the meaning of a decoded command (Dispatch's exec, given by Step). -/

namespace Sys2Proof.Machine

/-- The checks that come before every other: the access is 8 bytes wide and its offset a multiple of 8 (R62, R63). -/
def admitted (addr : BitVec 12) (size : BitVec 4) : Bool := decide (size = 8) && aligned addr

/-- MemRead: the answer to a host read (R65). It changes no state (R66). -/
def memRead (addr : BitVec 12) (size : BitVec 4) (s : State) : Response :=
  if !admitted addr size then .refused
  else if inTableWindow addr then
    if s.valid then .okayRead (s.tableRead (tableIndex addr)) else .refused
  else
    match regAt addr with
    | some r => .okayRead (readRegister r s)
    | none => .refused

/-- Where a host write goes: to a register, or it is refused with an answer. -/
inductive WriteRoute where
  | refuse (r : Response)
  | register (r : Reg)
deriving DecidableEq, Repr

/-- The admission of a host write (R62 to R65): one of the wrong size or alignment is refused with data 0 as a read is (I11
of 93_implementation_defined.md), and the table window and the read-only registers take none. -/
def writeRoute (addr : BitVec 12) (size : BitVec 4) : WriteRoute :=
  if !admitted addr size then .refuse .refused
  else if inTableWindow addr then .refuse .refusedWrite
  else
    match regAt addr with
    | some r => if registerWritable r then .register r else .refuse .refusedWrite
    | none => .refuse .refused

/-- The command a word written to CMD stands for is run; an illegal word records ILLEGAL_CMD and does nothing else (R95,
R213). -/
def commandWith (run : Instr → State → Result State) (w : Word) (s : State) : Result State :=
  match decode w with
  | .command i => run i s
  | .illegal _ => .next (raiseError .illegalCmd s)

/-- MemWrite: a host write and its answer (R65). A write to CMD is answered OKAY, whether or not its command is accepted
(R22). -/
def memWriteWith (run : Instr → State → Result State) (addr : BitVec 12) (size : BitVec 4) (v : Word) (s : State) :
    Result State :=
  match writeRoute addr size with
  | .refuse r => .next (respond r s)
  | .register .cmd => onNext (commandWith run v s) (respond .okayWrite)
  | .register r => .next (respond .okayWrite (writeRegister r v s))

/-- An access is processed and answered (R60, R275). -/
def accessWith (run : Instr → State → Result State) (a : Access) (s : State) : Result State :=
  if a.write then memWriteWith run a.addr a.size a.wdata s
  else .next (respond (memRead a.addr a.size s) s)

end Sys2Proof.Machine
end

