-- ==== Sys2Proof/Machine/Generate.lean ====
section
/-! DEFINITION. GENERATE and ABORT, and the sequencer they start and stop (41_table_generation.md). -/

namespace Sys2Proof.Machine

/-- `check(CFG, POLY, INIT, XOROUT)`: the first failing check's code, none where the configuration is valid (R142). -/
def checkConfig (m : WMax) (C : CrcConfig) : Option ErrCode :=
  let W := C.width.toNat
  if W % 8 ≠ 0 ∨ W < 8 ∨ m.bits < W then some .cfgWidth
  else if 2 ^ W ≤ C.polynomial.toNat then some .cfgPoly
  else if 2 ^ W ≤ C.initialRemainder.toNat then some .cfgInit
  else if 2 ^ W ≤ C.finalXor.toNat then some .cfgXorout
  else none

/-- Acceptance of GENERATE: the pending configuration is latched and the sequencer starts at entry 0 (R143). -/
def acceptGenerate (s : State) : State :=
  { s with act := s.pending, valid := false, done := false, idx := 0, bitcnt := 0, rem := 0, acc := 0, result := 0,
           phase := .load }

/-- GENERATE: refused for BUSY, then for an invalid configuration, else accepted (R141, R144, R245). -/
def execGenerate (s : State) : Result State :=
  if s.busy then .next (raiseError .busy s)
  else
    match checkConfig s.wMax s.pending with
    | some e => .next (raiseError e s)
    | none => .next (acceptGenerate s)

/-- A running generation stops: PHASE becomes IDLE, IDX, BITCNT and REM keep their values (R145), and TABLE is any value
(I1 of 93_implementation_defined.md; log entry 14). -/
def abortGeneration (s : State) : State := { forgetTable s with phase := .idle }

/-- ABORT: a running generation stops; when idle, no effect (R145). -/
def execAbort (s : State) : Result State := .next (if s.busy then abortGeneration s else s)

/-- LOAD: steps 1 and 2 of R146 (R150). -/
def seqLoad (s : State) : State :=
  { s with rem := placeByte (reflectByte s.act.reflectInput s.idx) s.act.width.toNat, bitcnt := 0, phase := .step }

/-- STEP: one division step; the eighth of an entry leads to STORE (R151). -/
def seqDivide (s : State) : State :=
  { s with rem := divisionStep s.rem s.act.polynomial s.act.width.toNat, bitcnt := s.bitcnt + 1,
           phase := if s.bitcnt + 1 = 8 then .store else .step }

/-- STORE: steps 4 and 5 of R146; after entry 255 the table is complete (R153). -/
def seqStore (s : State) : State :=
  let t := s.tableWrite s.idx (reflectWord s.act.reflectOutput s.act.width.toNat s.rem)
  if s.idx = 255 then { t with phase := .idle, valid := true, done := true }
  else { t with idx := s.idx + 1, phase := .load }

/-- The sequencer's step of a cycle, by PHASE; none when IDLE (R154, R275). -/
def sequencerStep (s : State) : State :=
  match s.phase with
  | .idle => s
  | .load => seqLoad s
  | .step => seqDivide s
  | .store => seqStore s

end Sys2Proof.Machine
end

