-- ==== Sys2Proof/Machine/Cycle.lean ====
section
/-! DEFINITION. One step of the machine: a clock cycle (R275), reset (R270), a stopped clock or removed power (R255). `run`
is the meaning of a decoded command (Dispatch's exec, given by Step). -/

namespace Sys2Proof.Machine

/-- rst_n is low: every register takes its reset value, TABLE becomes unspecified (a new draw), and an access that is
presented is answered SLVERR with data 0 (R270, R271; log entry 11). -/
def enterReset (req : Option Access) (s : State) : State :=
  { State.resetWith s.wMax with
    draws := s.draws + 1, inputs := s.inputs, rsp := req.map fun _ => Response.refused }

/-- A configuration of free values whose registers are 64 bits wide: CFG, POLY, INIT and XOROUT without power (I24). -/
def drawnConfig (n k : Nat) : CrcConfig :=
  { width := (Config.lostDraw n k).setWidth 8, polynomial := Config.lostDraw n (k + 1),
    initialRemainder := Config.lostDraw n (k + 2), finalXor := Config.lostDraw n (k + 3),
    reflectInput := (Config.lostDraw n (k + 4)).getLsbD 0, reflectOutput := (Config.lostDraw n (k + 5)).getLsbD 0 }

/-- A configuration whose value registers are W_MAX bits wide: ACT_* (R36). -/
def CrcConfig.fitMax (m : WMax) (C : CrcConfig) : CrcConfig :=
  { C with polynomial := fit m.bits C.polynomial, initialRemainder := fit m.bits C.initialRemainder,
           finalXor := fit m.bits C.finalXor }

/-- Power was removed: "any value until reset" (I24). Every register takes a free value, TABLE becomes unspecified, and so
is the answer to an access (log entry 12). -/
def losePower (req : Option Access) (s : State) : State :=
  let n := s.draws + 1
  { wMax := s.wMax, pending := drawnConfig n 0, act := (drawnConfig n 6).fitMax s.wMax, table := [],
    valid := (Config.lostDraw n 12).getLsbD 0, done := (Config.lostDraw n 13).getLsbD 0,
    err := (Config.lostDraw n 14).getLsbD 0, errCode := (Config.lostDraw n 15).setWidth 4,
    phase := Phase.ofBits ((Config.lostDraw n 16).setWidth 2), idx := (Config.lostDraw n 17).setWidth 8,
    bitcnt := (Config.lostDraw n 18).setWidth 4, rem := fit s.wMax.bits (Config.lostDraw n 19),
    doneIe := (Config.lostDraw n 20).getLsbD 0, errIe := (Config.lostDraw n 21).getLsbD 0,
    acc := fit s.wMax.bits (Config.lostDraw n 22), result := fit s.wMax.bits (Config.lostDraw n 23),
    powerLost := true, draws := n, inputs := s.inputs,
    rsp := req.map fun _ => { rdata := some (Config.lostDraw n 24), err := (Config.lostDraw n 25).getLsbD 0 } }

/-- `cycle()`: the sequencer's step, then the access against the state that step left (R275). -/
def cycleWith (run : Instr → State → Result State) (req : Option Access) (s : State) : Result State :=
  match req with
  | none => .next (silent (sequencerStep s))
  | some a => accessWith run a (sequencerStep s)

/-- What one event of the outside does to the machine (R255, R270, R275). -/
def eventWith (run : Instr → State → Result State) (e : HostEvent) (s : State) : Result State :=
  match e with
  | .resetLow req => .next (enterReset req s)
  | .powerRemoved => .next (losePower none s)
  | .clockStopped => .next (if s.powerLost then losePower none s else silent s)
  | .cycle req => if s.powerLost then .next (losePower req s) else cycleWith run req s

/-- The event the next step takes: the oldest of the inputs; where the outside presents nothing, a cycle without an access
(log entry 1). -/
def nextEvent (s : State) : HostEvent := s.inputs.headD (.cycle none)

/-- The state once its next event is taken. -/
def takeEvent (s : State) : State := { s with inputs := s.inputs.tail }

/-- One step: the next event happens. -/
def stepWith (run : Instr → State → Result State) (s : State) : Result State := eventWith run (nextEvent s) (takeEvent s)

/-- The access that writes a word to CMD (R97). -/
def cmdWrite (w : Word) : Access := { write := true, addr := regOffset .cmd, size := 8, wdata := w }

/-- An event is presented before every other that is still to come. -/
def presentFirst (e : HostEvent) (s : State) : State := { s with inputs := e :: s.inputs }

end Sys2Proof.Machine
end

