-- ==== Sys2Proof/Machine/Control.lean ====
section
/-! DEFINITION. The control commands NOP and ACK (43_control_and_bus.md). -/

namespace Sys2Proof.Machine

/-- NOP: no effect, also while BUSY (R210). -/
def execNop (s : State) : Result State := .next s

/-- ACK: DONE, ERR and ERR_CODE are cleared, in every state (R211). -/
def execAck (s : State) : Result State := .next (acknowledge s)

end Sys2Proof.Machine
end

