-- ==== Sys2Proof/Machine/Lookup.lean ====
section
/-! DEFINITION. The message commands of `crc_lookup_engine`: CRC_INIT, CRC_UPDATE and CRC_FINAL (42_lookup_engine.md). -/

namespace Sys2Proof.Machine

/-- MSG_PRE: the refusal of a message command, BUSY before NOT_READY; none where it may run (R180, R245). -/
def messageRefusal (s : State) : Option ErrCode :=
  if s.busy then some .busy else if s.valid then none else some .notReady

/-- The top byte of the register XORed with the byte as it enters the divider: `x` of R182. -/
def updateIndex (C : CrcConfig) (acc : Word) (b : Byte) : Byte :=
  (acc >>> (C.width.toNat - 8)).setWidth 8 ^^^ reflectByte C.reflectInput b

/-- ACC after one message byte (R182): the table is read at the reflected index, its value is reflected back. -/
def updatedAcc (s : State) (b : Byte) : Word :=
  let C := s.act
  let W := C.width.toNat
  let t := s.tableRead (reflectByte C.reflectInput (updateIndex C s.acc b))
  ((s.acc <<< 8) &&& widthMask W) ^^^ reflectWord C.reflectOutput W t

/-- The message CRC of the accumulator: `(ACT_REFOUT ? rev_W(ACC) : ACC) ^ ACT_XOROUT` (R183). -/
def finishedCrc (s : State) : Word :=
  reflectWord s.act.reflectOutput s.act.width.toNat s.acc ^^^ s.act.finalXor

/-- CRC_INIT: ACC takes the latched initial remainder, never reflected (R181). -/
def execCrcInit (s : State) : Result State :=
  match messageRefusal s with
  | some e => .next (raiseError e s)
  | none => .next { s with acc := s.act.initialRemainder }

/-- CRC_UPDATE b: one message byte is folded into ACC (R182). -/
def execCrcUpdate (b : Byte) (s : State) : Result State :=
  match messageRefusal s with
  | some e => .next (raiseError e s)
  | none => .next { s with acc := updatedAcc s b }

/-- CRC_FINAL: RESULT takes the message CRC, ACC stays (R183). -/
def execCrcFinal (s : State) : Result State :=
  match messageRefusal s with
  | some e => .next (raiseError e s)
  | none => .next { s with result := finishedCrc s }

end Sys2Proof.Machine
end

