-- ==== Sys2Proof/Machine/Dispatch.lean ====
section
/-! DEFINITION. The meaning of a command that was decoded, one arm per constructor (R213). -/

namespace Sys2Proof.Machine

def exec (i : Instr) (s : State) : Host.Outcome State Fault Refusal :=
  match i with
  | .nop => Sys2Proof.Machine.execNop s
  | .generate => Sys2Proof.Machine.execGenerate s
  | .abort => Sys2Proof.Machine.execAbort s
  | .ack => Sys2Proof.Machine.execAck s
  | .crcInit => Sys2Proof.Machine.execCrcInit s
  | .crcUpdate b => Sys2Proof.Machine.execCrcUpdate b s
  | .crcFinal => Sys2Proof.Machine.execCrcFinal s

end Sys2Proof.Machine
end

