-- ==== Sys2Proof/Machine/Step.lean ====
section
/-! DEFINITION. One step of the machine. The block fetches nothing (R74): a command comes from outside, as the data of a
write to CMD, so that write is what `withFetchWord` places (log entry 4). -/

namespace Sys2Proof.Machine

/-- One step of the machine (R275). -/
def step (s : State) : Host.Outcome State Fault Refusal := stepWith exec s

/-- The state in which the next event is a cycle whose access writes the given command word to CMD. -/
def State.withFetchWord (s : State) (nbits w : Nat) : State := presentFirst (.cycle (some (cmdWrite (tableWord nbits w)))) s

end Sys2Proof.Machine
end

