-- ==== Sys2Proof/Machine/HostAsm.lean ====
section
/-! DEFINITION. The host assembly (R97, R98): the access every statement is, the expansion of every pseudo-instruction, and
the text of a line. What R97 leaves open of the text is in log entry 16. -/

namespace Sys2Proof.Machine

/-- The access a statement is (R97): (dir, offset, data), 8 bytes wide. -/
def stmtAccess : Stmt → Access
  | .wr r v => { write := true, addr := regOffset r, size := 8, wdata := BitVec.ofNat 64 v }
  | .rd r => { write := false, addr := regOffset r, size := 8, wdata := 0 }
  | .rdt i => { write := false, addr := tableOffset (BitVec.ofNat 8 i), size := 8, wdata := 0 }
  | .command i => cmdWrite (encode i)

/-- What a host program does, pseudo-instructions expanded: one access, or reads of an offset until the value has the bits
wanted (R98). -/
inductive HostStep where
  | access (a : Access)
  | poll (a : Access) (mask val : Word)
deriving DecidableEq, Repr

/-- One statement as a step of a host program. -/
def stmtStep (st : Stmt) : HostStep := .access (stmtAccess st)

/-- `POLL <reg>, <mask>, <val>` (R98). -/
def pollStep (r : Reg) (mask val : Nat) : HostStep :=
  .poll (stmtAccess (.rd r)) (BitVec.ofNat 64 mask) (BitVec.ofNat 64 val)

/-- `CRC_BYTES`: one CRC_UPDATE per byte, in order (R98). -/
def crcByteSteps (bs : List Nat) : List HostStep :=
  bs.map fun b => stmtStep (.command (.crcUpdate (BitVec.ofNat 8 b)))

/-- The expansion of a line of the host assembly (R98). -/
def expand : HostOp → List HostStep
  | .stmt st => [stmtStep st]
  | .poll r mask val => [pollStep r mask val]
  | .waitIdle => [pollStep .status 0x1 0x0]
  | .config w poly init xorout refin refout =>
    [stmtStep (.wr .cfg (w ||| (refin <<< 8) ||| (refout <<< 9))), stmtStep (.wr .poly poly), stmtStep (.wr .init init),
     stmtStep (.wr .xorout xorout)]
  | .crcBytes bs => crcByteSteps bs
  | .crcString cs => crcByteSteps (cs.map Char.toNat)

/-- The pieces of a line. -/
inductive Token where
  | word (cs : List Char)
  | comma
  | quoted (cs : List Char)
deriving DecidableEq, Repr

/-- The double quote around the string of CRC_STRING. -/
def quoteMark : Char := Char.ofNat 0x22

/-- A word that ends here, if one was begun. -/
def endWord (cur : List Char) : List Token := if cur = [] then [] else [.word cur.reverse]

/-- A line cut into pieces, `;` beginning a comment (R97). A `;` inside a string is a character
of the string, which R97 leaves open (log entry 16). `inQuote` says whether the text read so far ends inside a string, `cur`
is the word or string begun, last character first. A string without its end is refused. -/
def tokenize : List Char → Bool → List Char → Option (List Token)
  | [], false, cur => some (endWord cur)
  | [], true, _ => none
  | c :: cs, false, cur =>
    if c = ';' then some (endWord cur)
    else if c = ',' then (tokenize cs false []).map fun ts => endWord cur ++ .comma :: ts
    else if c = quoteMark then (tokenize cs true []).map fun ts => endWord cur ++ ts
    else if c.isWhitespace then (tokenize cs false []).map fun ts => endWord cur ++ ts
    else tokenize cs false (c :: cur)
  | c :: cs, true, cur =>
    if c = quoteMark then (tokenize cs false []).map fun ts => .quoted cur.reverse :: ts
    else tokenize cs true (c :: cur)

/-- The value of a digit. -/
def digitValue (c : Char) : Option Nat :=
  let n := c.toUpper.toNat
  if 48 ≤ n ∧ n ≤ 57 then some (n - 48) else if 65 ≤ n ∧ n ≤ 70 then some (n - 55) else none

/-- The digits of a number from the left; `_` only groups digits (R9). -/
def readDigits (base : Nat) : List Char → Nat → Option Nat
  | [], n => some n
  | c :: cs, n =>
    if c = '_' then readDigits base cs n
    else
      match digitValue c with
      | some d => if d < base then readDigits base cs (n * base + d) else none
      | none => none

/-- The digits of a number with `_` only between them: no digit, or a `_` at either end, is no number. R9 says that `_`
inside a constant groups digits; that it may not stand at an end is the model's choice (log entry 16). -/
def readGrouped (base : Nat) (cs : List Char) : Option Nat :=
  if cs = [] ∨ cs.head? = some '_' ∨ cs.getLast? = some '_' then none else readDigits base cs 0

/-- "Numbers are decimal, or hexadecimal with `0x`" (R97). -/
def readNumber : List Char → Option Nat
  | '0' :: 'x' :: cs => readGrouped 16 cs
  | cs => readGrouped 10 cs

/-- The name of a register (10_state.md section 2), in capitals. -/
def readReg (cs : List Char) : Option Reg :=
  if cs = "ID".toList then some .id
  else if cs = "CMD".toList then some .cmd
  else if cs = "CFG".toList then some .cfg
  else if cs = "POLY".toList then some .poly
  else if cs = "INIT".toList then some .init
  else if cs = "XOROUT".toList then some .xorout
  else if cs = "STATUS".toList then some .status
  else if cs = "IRQ_EN".toList then some .irqEn
  else if cs = "RESULT".toList then some .result
  else if cs = "ACC".toList then some .acc
  else none

/-- The operands between commas. -/
def operands : List Token → Option (List Token)
  | [] => some []
  | [.comma] => none
  | [t] => some [t]
  | .comma :: _ => none
  | _ :: [.comma] => none
  | t :: .comma :: rest => (operands rest).map fun ts => t :: ts
  | _ :: _ => none

/-- An operand that is a number. -/
def numberOperand : Token → Option Nat
  | .word cs => readNumber cs
  | .comma => none
  | .quoted _ => none

/-- An operand that is a register's name. -/
def regOperand : Token → Option Reg
  | .word cs => readReg (cs.map Char.toUpper)
  | .comma => none
  | .quoted _ => none

/-- The operands of a line that takes numbers only. -/
def numberOperands : List Token → Option (List Nat)
  | [] => some []
  | t :: ts =>
    match numberOperand t, numberOperands ts with
    | some n, some ns => some (n :: ns)
    | _, _ => none

/-- A line that takes no operand. -/
def bare (args : List Token) (op : HostOp) : Option HostOp := if args = [] then some op else none

/-- `WR <reg>, <v>` (R97). -/
def readWr : List Token → Option HostOp
  | [r, v] =>
    match regOperand r, numberOperand v with
    | some r, some v => some (.stmt (.wr r v))
    | _, _ => none
  | _ => none

/-- `POLL <reg>, <mask>, <val>` (R98). -/
def readPoll : List Token → Option HostOp
  | [r, m, v] =>
    match regOperand r, numberOperand m, numberOperand v with
    | some r, some m, some v => some (.poll r m v)
    | _, _, _ => none
  | _ => none

/-- `RD <reg>` (R97). -/
def readRd : List Token → Option HostOp
  | [r] => (regOperand r).map fun r => .stmt (.rd r)
  | _ => none

/-- `RDT <i>` (R97). -/
def readRdt : List Token → Option HostOp
  | [i] => (numberOperand i).map fun i => .stmt (.rdt i)
  | _ => none

/-- `CRC_UPDATE <b>` (R97): a number that is no byte is refused. So is CRC_UPDATE without an operand, which R97 leaves open (log
entry 16). -/
def readCrcUpdate : List Token → Option HostOp
  | [b] =>
    match numberOperand b with
    | some b => if b < 256 then some (.stmt (.command (.crcUpdate (BitVec.ofNat 8 b)))) else none
    | none => none
  | _ => none

/-- `CONFIG <w>, <poly>, <init>, <xorout>, <refin>, <refout>` (R98). -/
def readConfig (args : List Token) : Option HostOp :=
  match numberOperands args with
  | some [w, p, i, x, ri, ro] => some (.config w p i x ri ro)
  | _ => none

/-- `CRC_BYTES <b1>, ..., <bn>` (R98). -/
def readCrcBytes (args : List Token) : Option HostOp :=
  if args = [] then none else (numberOperands args).map .crcBytes

/-- `CRC_STRING "<s>"` (R98). The empty string is taken and is no access, which R98 leaves open (log entry 16). -/
def readCrcString : List Token → Option HostOp
  | [.quoted cs] => some (.crcString cs)
  | _ => none

/-- A line from its mnemonic, in capitals, and its operands (R97, R98). -/
def readOp (m : List Char) (args : List Token) : Option HostOp :=
  if m = "WR".toList then readWr args
  else if m = "RD".toList then readRd args
  else if m = "RDT".toList then readRdt args
  else if m = "NOP".toList then bare args (.stmt (.command .nop))
  else if m = "GENERATE".toList then bare args (.stmt (.command .generate))
  else if m = "ABORT".toList then bare args (.stmt (.command .abort))
  else if m = "ACK".toList then bare args (.stmt (.command .ack))
  else if m = "CRC_INIT".toList then bare args (.stmt (.command .crcInit))
  else if m = "CRC_UPDATE".toList then readCrcUpdate args
  else if m = "CRC_FINAL".toList then bare args (.stmt (.command .crcFinal))
  else if m = "POLL".toList then readPoll args
  else if m = "WAIT_IDLE".toList then bare args .waitIdle
  else if m = "CONFIG".toList then readConfig args
  else if m = "CRC_BYTES".toList then readCrcBytes args
  else if m = "CRC_STRING".toList then readCrcString args
  else none

/-- What a line of text is. -/
inductive Line where
  | blank
  | op (o : HostOp)
  | refused
deriving DecidableEq, Repr

/-- A line of the host assembly: mnemonics are case-insensitive, a line may be blank or a comment (R97); a line whose
operands do not fit is refused. -/
def readLine (cs : List Char) : Line :=
  match tokenize cs false [] with
  | some [] => .blank
  | some (.word m :: rest) =>
    match (operands rest).bind fun args => readOp (m.map Char.toUpper) args with
    | some op => if op.wellFormed then .op op else .refused
    | none => .refused
  | some (.comma :: _) => .refused
  | some (.quoted _ :: _) => .refused
  | none => .refused

end Sys2Proof.Machine
end

