-- ==== Sys2Proof/Machine/HostRun.lean ====
section
/-! DEFINITION. A host program against the machine: one access per cycle, no idle cycle between two (R97, R98; log entry
17). The loop of POLL is the host's (R218). -/

namespace Sys2Proof.Machine

/-- The next state of a step, none where it stopped. -/
def nextState : Result State → Option State
  | .next s => some s
  | .fault _ => none
  | .refused _ => none

/-- One cycle in which the host presents an access (R60, R275). -/
def issue (a : Access) (s : State) : Option State := nextState (step (presentFirst (.cycle (some a)) s))

/-- "until `(value & mask) = val`" (R98), of the value the port answered last. -/
def pollEnds (mask val : Word) (s : State) : Bool :=
  match s.rsp with
  | some { rdata := some v, err := _ } => v &&& mask == val
  | some { rdata := none, err := _ } => false
  | none => false

/-- POLL: reads until the value has the bits wanted; "POLL has no bound" (R98), so none where `fuel` reads are too few. -/
def runPoll : Nat → Access → Word → Word → State → Option State
  | 0, _, _, _, _ => none
  | fuel + 1, a, mask, val, s =>
    (issue a s).bind fun t => if pollEnds mask val t then some t else runPoll fuel a mask val t

/-- A host program from its steps; `fuel` bounds the reads of each POLL. -/
def runHost (fuel : Nat) : List HostStep → State → Option State
  | [], s => some s
  | .access a :: rest, s => (issue a s).bind (runHost fuel rest)
  | .poll a mask val :: rest, s => (runPoll fuel a mask val s).bind (runHost fuel rest)

/-- A host program from its lines. -/
def runProgram (fuel : Nat) (ops : List HostOp) (s : State) : Option State := runHost fuel (ops.flatMap expand) s

end Sys2Proof.Machine
end

