-- ==== Sys2Proof/Machine/Reference.lean ====
section
/-! DEFINITION. What the block is to compute, as mathematics: the table of a configuration (R146, R147), the bitwise
message CRC (R184), and the supported widths (R5, R142). The machine does not call `entry` or `crcRef`; claims compare it
with them. -/

namespace Sys2Proof.Machine

/-- "A width is supported if and only if it is a multiple of 8 with `8 <= width <= W_MAX`" (R5). -/
abbrev Supported (m : WMax) (W : Nat) : Prop := W % 8 = 0 ∧ 8 ≤ W ∧ W ≤ m.bits

/-- A valid configuration: supported width, and polynomial, initial remainder and final XOR below 2^width (R142). -/
abbrev CrcConfig.Valid (m : WMax) (C : CrcConfig) : Prop :=
  Supported m C.width.toNat ∧ C.polynomial.toNat < 2 ^ C.width.toNat ∧
    C.initialRemainder.toNat < 2 ^ C.width.toNat ∧ C.finalXor.toNat < 2 ^ C.width.toNat

/-- `entry(d, C)`: the table entry for byte value d (R146). -/
def entry (d : Byte) (C : CrcConfig) : Word :=
  let W := C.width.toNat
  reflectWord C.reflectOutput W (divisionSteps 8 (placeByte (reflectByte C.reflectInput d) W) C.polynomial W)

/-- `build(C)`: the 256 entries in ascending order (R147). -/
def build (C : CrcConfig) : List Word := (List.range 256).map fun d => entry (BitVec.ofNat 8 d) C

/-- C with both reflections off (R185). -/
def CrcConfig.unreflected (C : CrcConfig) : CrcConfig := { C with reflectInput := false, reflectOutput := false }

/-- One byte of the bitwise reference: XORed into the top of the register, then 8 division steps (R184). -/
def crcRefByte (C : CrcConfig) (reg : Word) (b : Byte) : Word :=
  let W := C.width.toNat
  divisionSteps 8 (reg ^^^ (reflectByte C.reflectInput b).setWidth 64 <<< (W - 8)) C.polynomial W

/-- The register of the bitwise reference after the bytes of a message (R184). -/
def crcRefRegister (C : CrcConfig) (msg : List Byte) : Word := msg.foldl (crcRefByte C) C.initialRemainder

/-- `crc_ref(m, C)` (R184). -/
def crcRef (C : CrcConfig) (msg : List Byte) : Word :=
  reflectWord C.reflectOutput C.width.toNat (crcRefRegister C msg) ^^^ C.finalXor

end Sys2Proof.Machine
end

