-- ==== Sys2Proof/Safety.lean ====
section
/-! DEFINITION. The terms claims are stated in: what the next event is and which command it issues, the invariants of R43
and of a table in the making (R40, R155), the reachable states, undisturbed generations (R276) and message runs (R184). -/

namespace Sys2Proof.Machine

/-- The state the access of a cycle is processed against: the sequencer has stepped, the event is taken (R275). -/
def afterSequencer (s : State) : State := sequencerStep (takeEvent s)

/-- The word that an event writes to CMD by an admitted access (R90). -/
def writtenCommand : HostEvent → Option Word
  | .cycle (some a) => if a.write ∧ writeRoute a.addr a.size = .register .cmd then some a.wdata else none
  | .cycle none => none
  | .resetLow _ => none
  | .clockStopped => none
  | .powerRemoved => none

/-- The command that an event issues: an admitted write of a legal word to CMD (R213). -/
def issuedCommand (e : HostEvent) : Option Instr :=
  match writtenCommand e with
  | some w =>
    match decode w with
    | .command i => some i
    | .illegal _ => none
  | none => none

/-- What R43 says of every reachable state, with what its proof needs: while a table is built or valid the latched
configuration is a valid one, VALID and DONE exclude a running generation as R40 and R143 say, the entries stored so far are
in range, ERR_CODE is one of 1 to 7 while ERR = 1 (I4), STEP sees BITCNT = 0 to 7 (R151), and TABLE keeps its form. -/
structure InRange (s : State) : Prop where
  actValid : s.phase ≠ .idle ∨ s.valid = true → s.act.Valid s.wMax
  remFits : s.phase ≠ .idle → s.rem.toNat < 2 ^ s.act.width.toNat
  validIdle : s.valid = true → s.phase = .idle
  busyNotDone : s.phase ≠ .idle → s.done = false
  tableFits : s.valid = true → ∀ d, (s.tableRead d).toNat < 2 ^ s.act.width.toNat
  storedFits : s.phase ≠ .idle → ∀ d : Byte, d.toNat < s.idx.toNat → (s.tableRead d).toNat < 2 ^ s.act.width.toNat
  accFits : s.acc.toNat < 2 ^ s.act.width.toNat
  resultFits : s.result.toNat < 2 ^ s.act.width.toNat
  noError : s.err = false → s.errCode = 0
  errorCode : s.err = true → 1 ≤ s.errCode.toNat ∧ s.errCode.toNat ≤ 7
  bitcntBound : s.bitcnt.toNat ≤ 8
  stepCount : s.phase = .step → s.bitcnt.toNat < 8
  tableForm : Table.wf s.table

/-- The remainder a generation is to hold after `n` division steps of the current entry (R150, R151). -/
def remainderAfter (n : Nat) (s : State) : Word :=
  divisionSteps n (placeByte (reflectByte s.act.reflectInput s.idx) s.act.width.toNat) s.act.polynomial s.act.width.toNat

/-- TABLE is the table of ACT_* as far as it was built (R40, R155): all of it while VALID = 1, the entries below IDX while a
generation runs; and REM is the remainder of entry IDX. -/
structure Built (s : State) : Prop where
  whole : s.valid = true → s.phase = .idle ∧ ∀ d, s.tableRead d = entry d s.act
  below : s.phase ≠ .idle → s.valid = false ∧ ∀ d : Byte, d.toNat < s.idx.toNat → s.tableRead d = entry d s.act
  dividing : s.phase = .step → s.bitcnt.toNat < 8 ∧ s.rem = remainderAfter s.bitcnt.toNat s
  divided : s.phase = .store → s.bitcnt.toNat = 8 ∧ s.rem = remainderAfter 8 s

/-- A property of the states in which power was not removed since the last reset: without power every register is
undetermined (R255, I24). -/
def WhilePowered (P : State → Prop) (s : State) : Prop := s.powerLost = false → P s

/-- A state that some host and some platform can bring a block to, from its reset on. -/
def Reachable (s : State) : Prop :=
  ∃ (m : WMax) (inputs : List HostEvent) (n : Nat),
    Sys2Proof.core.run n { State.resetWith m with inputs := inputs } = .next s

/-- A cycle of a running generation that does not stop it: no reset, the clock runs, and no ABORT (R155). -/
def Undisturbed (e : HostEvent) : Prop := (∃ req, e = .cycle req) ∧ issuedCommand e ≠ some .abort

/-- A cycle in which nothing is written to CMD. -/
def Quiet (e : HostEvent) : Prop := (∃ req, e = .cycle req) ∧ writtenCommand e = none

/-- The commands of a host program, one after the other (R213). -/
def runCommands : List Instr → State → Result State
  | [], s => .next s
  | i :: rest, s =>
    match exec i s with
    | .next t => runCommands rest t
    | .fault e => .fault e
    | .refused e => .refused e

/-- CRC_INIT and the bytes of a message (R184). -/
def messageCommands (msg : List Byte) : List Instr := .crcInit :: msg.map .crcUpdate

end Sys2Proof.Machine
end

