-- ==== Sys2Proof/Certificates/Slice0/Obligations.lean ====
section
/-! DEFINITION. The statements for the provers, from the numbered rules of spec/. `afterSequencer s` is the state the access
of a cycle is processed against (R275). A statement about free values holds for every value of them. -/

open Sys2Proof Sys2Proof.Machine

/-! ## Encoding -/

/-- R93, R94 on words written out from the opcode map and from 95_test_vectors.md section 2.3. -/
def Obligations.WordsOfTheOpcodeMapDecode : Prop :=
  decode 0x0000000000000000 = .command .nop ∧ decode 0x0000000000000001 = .command .generate ∧
  decode 0x0000000000000002 = .command .abort ∧ decode 0x0000000000000003 = .command .ack ∧
  decode 0x0000000000000004 = .command .crcInit ∧ decode 0x0000000000003105 = .command (.crcUpdate 0x31) ∧
  decode 0x000000000000FF05 = .command (.crcUpdate 0xFF) ∧ decode 0x0000000000000006 = .command .crcFinal ∧
  decode 0x0000000000000007 = .illegal .unassignedOpcode ∧ decode 0x0000000000000101 = .illegal .operandNotZero ∧
  decode 0x0000000000010003 = .illegal .reservedBits ∧ decode 0x8000000000000005 = .illegal .reservedBits

/-- R92, R94: decoding an encoded command gives it back, and a word that decodes to a command is that command's word. -/
def Obligations.DecodeInvertsEncode : Prop :=
  ∀ (w : Word) (i : Instr), decode w = .command i ↔ w = encode i

/-- R93: a row of the match and mask table selects exactly the words that decode to its mnemonic, and no word is selected
by two rows; a word that no row selects is illegal. -/
def Obligations.OpcodeRowsSelectWhatDecodes : Prop :=
  ∀ w : Word,
    (∀ row ∈ opcodeRows, row.selects w = true ↔ ∃ i, decode w = .command i ∧ mnemonicOf i = row.mnemonic) ∧
    (opcodeRows.filter fun row => row.selects w).length ≤ 1 ∧
    ((∀ row ∈ opcodeRows, row.selects w = false) ↔ ∃ why, decode w = .illegal why)

/-- R95: which words are illegal. -/
def Obligations.IllegalWordsAreTheReservedOnes : Prop :=
  ∀ w : Word,
    (∃ why, decode w = .illegal why) ↔
      w.toNat / 2 ^ 16 ≠ 0 ∨ (w.toNat / 2 ^ 8 % 2 ^ 8 ≠ 0 ∧ w.toNat % 2 ^ 8 ≠ 5) ∨ 7 ≤ w.toNat % 2 ^ 8

/-! ## polynomial_divider -/

/-- R120, R121, R122 in exact arithmetic on unbounded naturals: the two masks; shift, mask, and XOR with P where the top bit
was set; masking after the XOR gives the same; the result fits W bits; the corner cases and the examples. -/
def Obligations.DivisionStepIsOneBitOfDivision : Prop :=
  (∀ (W : Nat) (r P : Word), 1 ≤ W → W ≤ 64 → r.toNat < 2 ^ W → P.toNat < 2 ^ W →
    (divisionStep r P W).toNat = (2 * r.toNat % 2 ^ W) ^^^ (if r.toNat.testBit (W - 1) then P.toNat else 0) ∧
    (divisionStep r P W).toNat = ((2 * r.toNat) ^^^ (if r.toNat.testBit (W - 1) then P.toNat else 0)) % 2 ^ W ∧
    (divisionStep r P W).toNat < 2 ^ W ∧
    (topBitMask W).toNat = 2 ^ (W - 1) ∧ (widthMask W).toNat = 2 ^ W - 1 ∧
    divisionStep 0 P W = 0 ∧ (divisionStep r 0 W).toNat = 2 * r.toNat % 2 ^ W ∧ divisionStep (topBitMask W) P W = P) ∧
  divisionStep 0x8000 0x1021 16 = 0x1021 ∧ divisionStep 0x4000 0x1021 16 = 0x8000

/-- R123: the full-width form, with the implicit leading coefficient; bit W of it is 0. -/
def Obligations.DivisionStepHasTheFullWidthForm : Prop :=
  ∀ (W : Nat) (r P : Word), 1 ≤ W → W ≤ 64 → r.toNat < 2 ^ W → P.toNat < 2 ^ W →
    let full := (2 * r.toNat) ^^^ (if r.toNat.testBit (W - 1) then 2 ^ W ||| P.toNat else 0)
    (divisionStep r P W).toNat = full ∧ full.testBit W = false

/-- R124: bit i goes to bit n-1-i, bits at n and above are ignored, the result is below 2^n; the examples. -/
def Obligations.ReversalMovesBitIToBitNMinusOneMinusI : Prop :=
  (∀ (n : Nat) (v : Word), n ≤ 64 →
    (rev n v).toNat = (∑ i ∈ Finset.range n, (if v.getLsbD i then 1 else 0) * 2 ^ (n - 1 - i)) ∧
    (∀ i, i < n → (rev n v).getLsbD (n - 1 - i) = v.getLsbD i) ∧ (rev n v).toNat < 2 ^ n) ∧
  rev 8 0x01 = 0x80 ∧ rev 8 0x0F = 0xF0 ∧ rev 16 0x1021 = 0x8408 ∧ rev 16 0x8005 = 0xA001

/-- R125: reversal is an involution, for n = 8 on bytes and for every n up to 64. -/
def Obligations.ReversalIsAnInvolution : Prop :=
  (∀ (n : Nat) (v : Word), n ≤ 64 → v.toNat < 2 ^ n → rev n (rev n v) = v) ∧ ∀ b : Byte, revByte (revByte b) = b

/-- R127: divisionStep is linear, so is reversal, so is every table entry for every valid configuration; entry(0) = 0; the entries of the
eight one-bit bytes fix the table. -/
def Obligations.DivisionAndEntriesAreLinear : Prop :=
  (∀ (W : Nat) (a b P : Word), 1 ≤ W → W ≤ 64 →
    divisionStep (a ^^^ b) P W = divisionStep a P W ^^^ divisionStep b P W) ∧
  (∀ (n : Nat) (a b : Word), n ≤ 64 → rev n (a ^^^ b) = rev n a ^^^ rev n b) ∧
  ∀ (m : WMax) (C : CrcConfig), C.Valid m →
    (∀ a b : Byte, entry (a ^^^ b) C = entry a C ^^^ entry b C) ∧ entry 0 C = 0 ∧
    ∀ d : Byte, entry d C = (List.range 8).foldl
      (fun acc k => if d.getLsbD k then acc ^^^ entry (BitVec.ofNat 8 (2 ^ k)) C else acc) 0

/-! ## The table -/

/-- R147: build(C) has 256 entries, entry d at place d, each below 2^W, and does not depend on the initial remainder and
the final XOR. -/
def Obligations.BuildHas256EntriesInRange : Prop :=
  ∀ (m : WMax) (C : CrcConfig), C.Valid m →
    (build C).length = 256 ∧ (∀ d : Byte, (build C)[d.toNat]? = some (entry d C)) ∧
    (∀ v ∈ build C, v.toNat < 2 ^ C.width.toNat) ∧
    ∀ i x : Word, build { C with initialRemainder := i, finalXor := x } = build C

/-- R156, of every table the block has generated: TABLE[0] = 0; with no reflection TABLE[1] = P and TABLE[0x80] is seven
division steps of P, 0x9188 for W = 16 and P = 0x1021; TABLE is linear. -/
def Obligations.GeneratedTablesHaveTheKnownEntries : Prop :=
  ∀ s : State, s.act.Valid s.wMax → Built s → s.valid = true →
    s.tableRead 0 = 0 ∧
    (s.act.reflectInput = false → s.act.reflectOutput = false →
      s.tableRead 1 = s.act.polynomial ∧
      s.tableRead 0x80 = divisionSteps 7 s.act.polynomial s.act.polynomial s.act.width.toNat ∧
      (s.act.width = 16 → s.act.polynomial = 0x1021 → s.tableRead 0x80 = 0x9188)) ∧
    ∀ a b : Byte, s.tableRead (a ^^^ b) = s.tableRead a ^^^ s.tableRead b

/-- R185: from the table of every valid configuration the engine recovers the entry of the unreflected one. -/
def Obligations.UnreflectedEntriesAreRecovered : Prop :=
  ∀ (m : WMax) (C : CrcConfig), C.Valid m → ∀ x : Byte,
    reflectWord C.reflectOutput C.width.toNat (entry (reflectByte C.reflectInput x) C) = entry x C.unreflected

/-! ## Validation, GENERATE and ABORT -/

/-- R142: the checks in their order, each with its code (R240's numbers); for W = 64 the range checks always pass. -/
def Obligations.ConfigurationChecksInOrder : Prop :=
  ∀ (m : WMax) (C : CrcConfig),
    (checkConfig m C = some .cfgWidth ↔ ¬ Supported m C.width.toNat) ∧
    (checkConfig m C = some .cfgPoly ↔ Supported m C.width.toNat ∧ 2 ^ C.width.toNat ≤ C.polynomial.toNat) ∧
    (checkConfig m C = some .cfgInit ↔
      Supported m C.width.toNat ∧ C.polynomial.toNat < 2 ^ C.width.toNat ∧ 2 ^ C.width.toNat ≤ C.initialRemainder.toNat) ∧
    (checkConfig m C = some .cfgXorout ↔
      Supported m C.width.toNat ∧ C.polynomial.toNat < 2 ^ C.width.toNat ∧
        C.initialRemainder.toNat < 2 ^ C.width.toNat ∧ 2 ^ C.width.toNat ≤ C.finalXor.toNat) ∧
    (checkConfig m C = none ↔ C.Valid m) ∧
    ErrCode.cfgWidth.code = 1 ∧ ErrCode.cfgPoly.code = 2 ∧ ErrCode.cfgInit.code = 3 ∧ ErrCode.cfgXorout.code = 4 ∧
    (C.width = 64 → Supported m 64 → checkConfig m C = none)

/-- R143: GENERATE, when idle and with a valid configuration, latches it and starts; everything else is unchanged. -/
def Obligations.GenerateIsAccepted : Prop :=
  ∀ s : State, s.phase = .idle → s.pending.Valid s.wMax →
    exec .generate s = .next
      { s with act := s.pending, valid := false, done := false, idx := 0, bitcnt := 0, rem := 0, acc := 0, result := 0,
               phase := .load }

/-- R144: GENERATE is refused for BUSY or for its configuration, and then only records the error, code 6 or the code of
the first check that fails, 1 to 4. -/
def Obligations.GenerateIsRefused : Prop :=
  ∀ s : State,
    (s.phase ≠ .idle → exec .generate s = .next { s with err := true, errCode := if s.err then s.errCode else 6 }) ∧
    (s.phase = .idle → ¬ s.pending.Valid s.wMax →
      let W := s.pending.width.toNat
      let code : BitVec 4 :=
        if ¬ Supported s.wMax W then 1
        else if 2 ^ W ≤ s.pending.polynomial.toNat then 2
        else if 2 ^ W ≤ s.pending.initialRemainder.toNat then 3
        else 4
      exec .generate s = .next { s with err := true, errCode := if s.err then s.errCode else code })

/-- R145: ABORT stops a generation and keeps IDX, BITCNT and REM; TABLE becomes any value (I1), a new draw (log entries 9 and
14); when idle it does nothing; in the cycle of the final STORE it comes too late. -/
def Obligations.AbortStopsARunningGeneration : Prop :=
  (∀ s : State, s.phase ≠ .idle →
    exec .abort s = .next { s with phase := .idle, table := [], draws := s.draws + 1 }) ∧
  (∀ s : State, s.phase = .idle → exec .abort s = .next s) ∧
  encode .abort = 0x0000000000000002 ∧
  ∀ s : State, s.powerLost = false → nextEvent s = .cycle (some (cmdWrite (encode .abort))) → s.phase = .store →
    s.idx = 255 → ∃ t, step s = .next t ∧ t.valid = true ∧ t.done = true ∧ t.phase = .idle

/-! ## The sequencer -/

/-- R150, R151, R153, R154: what one sequencer step does in each phase, and that it does nothing else. -/
def Obligations.SequencerStepsByPhase : Prop :=
  ∀ s : State,
    let W := s.act.width.toNat
    (s.phase = .idle → sequencerStep s = s) ∧
    (s.phase = .load → sequencerStep s =
      { s with rem := ((if s.act.reflectInput then revByte s.idx else s.idx).setWidth 64 <<< (W - 8)) &&& widthMask W,
               bitcnt := 0, phase := .step }) ∧
    (s.phase = .step → sequencerStep s =
      { s with rem := divisionStep s.rem s.act.polynomial W, bitcnt := s.bitcnt + 1,
               phase := if s.bitcnt + 1 = 8 then .store else .step }) ∧
    (s.phase = .store → s.idx ≠ 255 → sequencerStep s =
      { s.tableWrite s.idx (if s.act.reflectOutput then rev W s.rem else s.rem) with
        idx := s.idx + 1, phase := .load }) ∧
    (s.phase = .store → s.idx = 255 → sequencerStep s =
      { s.tableWrite s.idx (if s.act.reflectOutput then rev W s.rem else s.rem) with
        phase := .idle, valid := true, done := true })

/-- R152: the sequencer reads none of INIT, XOROUT, ACT_INIT, ACT_XOROUT, and nothing of the pending configuration: whatever
they are, it does the same. -/
def Obligations.SequencerReadsNoInitialRemainderNorPending : Prop :=
  ∀ (s : State) (p : CrcConfig) (a x : Word),
    sequencerStep { s with pending := p, act := { s.act with initialRemainder := a, finalXor := x } } =
      { sequencerStep s with pending := p, act := { s.act with initialRemainder := a, finalXor := x } }

/-- R155: an accepted GENERATE followed by 2560 sequencer steps leaves VALID = 1, PHASE = IDLE and the table of the
configuration it latched. -/
def Obligations.GenerationBuildsTheWholeTable : Prop :=
  ∀ s u : State, s.phase = .idle → s.pending.Valid s.wMax → exec .generate s = .next u →
    let t := sequencerStep^[2560] u
    t.valid = true ∧ t.done = true ∧ t.phase = .idle ∧ t.act = s.pending ∧
    (∀ d : Byte, t.tableRead d = entry d s.pending) ∧ t.idx = 255 ∧ t.bitcnt = 8

/-- R276: the timetable of a generation, cycle by cycle, whatever the host does meanwhile short of an ABORT: PHASE, BITCNT
and IDX after k cycles, and entry d written in cycle 10(d+1). -/
def Obligations.GenerationKeepsItsTimetable : Prop :=
  ∀ (s : State) (k : Nat), s.powerLost = false → s.phase = .load → s.idx = 0 → s.bitcnt = 0 → s.valid = false →
    1 ≤ k → k ≤ 2559 → (∀ e ∈ s.inputs.take k, Undisturbed e) →
    ∃ t, Sys2Proof.core.run k s = .next t ∧ t.powerLost = false ∧ t.act = s.act ∧ t.valid = false ∧
      (let j := (k - 1) % 10
       let e := (k - 1) / 10
       (j ≤ 7 → t.phase = .step ∧ t.bitcnt.toNat = j ∧ t.idx.toNat = e) ∧
       (j = 8 → t.phase = .store ∧ t.bitcnt.toNat = 8 ∧ t.idx.toNat = e) ∧
       (j = 9 → t.phase = .load ∧ t.bitcnt.toNat = 8 ∧ t.idx.toNat = e + 1)) ∧
      ∀ d : Byte, 10 * (d.toNat + 1) ≤ k → t.tableRead d = entry d s.act

/-- R276, R155: the 2560th cycle after the accepted GENERATE completes the table, whatever the host did meanwhile short of
an ABORT. The last cycle writes nothing to CMD, so that DONE is seen as the STORE left it. -/
def Obligations.GenerationCompletesInCycle2560 : Prop :=
  ∀ s : State, s.powerLost = false → s.phase = .load → s.idx = 0 → s.bitcnt = 0 → s.valid = false →
    (∀ e ∈ s.inputs.take 2559, Undisturbed e) → Quiet ((s.inputs.drop 2559).headD (.cycle none)) →
    ∃ t, Sys2Proof.core.run 2560 s = .next t ∧ t.valid = true ∧ t.done = true ∧ t.phase = .idle ∧ t.act = s.act ∧
      t.idx = 255 ∧ t.bitcnt = 8 ∧ ∀ d : Byte, t.tableRead d = entry d s.act

/-! ## The control and message commands -/

/-- R210, R211: NOP has no effect; ACK clears DONE, ERR and ERR_CODE and nothing else, in every state. -/
def Obligations.NopAndAckComplete : Prop :=
  ∀ s : State, exec .nop s = .next s ∧ exec .ack s = .next { s with done := false, err := false, errCode := 0 }

/-- R182: CRC_UPDATE b, when idle and valid, folds b into ACC through TABLE; everything else is unchanged. -/
def Obligations.CrcUpdateFoldsOneByte : Prop :=
  ∀ (s : State) (b : Byte), s.phase = .idle → s.valid = true →
    let W := s.act.width.toNat
    let bb := if s.act.reflectInput then revByte b else b
    let x : Byte := ((s.acc >>> (W - 8)) ^^^ bb.setWidth 64).setWidth 8
    let t := s.tableRead (if s.act.reflectInput then revByte x else x)
    let tn := if s.act.reflectOutput then rev W t else t
    exec (.crcUpdate b) s = .next { s with acc := ((s.acc <<< 8) &&& widthMask W) ^^^ tn }

/-- R181, R183: when idle and valid, CRC_INIT loads ACC with ACT_INIT, never reflected, and CRC_FINAL puts the finished CRC
into RESULT and keeps ACC; everything else is unchanged. -/
def Obligations.CrcInitAndCrcFinalComplete : Prop :=
  ∀ s : State, s.phase = .idle → s.valid = true →
    exec .crcInit s = .next { s with acc := s.act.initialRemainder } ∧
    exec .crcFinal s = .next
      { s with result := (if s.act.reflectOutput then rev s.act.width.toNat s.acc else s.acc) ^^^ s.act.finalXor }

/-- R180: a message command is refused with BUSY while a generation runs, else with NOT_READY while VALID = 0, and then only
records the error. -/
def Obligations.MessageCommandsNeedACompleteTable : Prop :=
  ∀ (s : State) (i : Instr), (i = .crcInit ∨ (∃ b, i = .crcUpdate b) ∨ i = .crcFinal) →
    (s.phase ≠ .idle → exec i s = .next { s with err := true, errCode := if s.err then s.errCode else 6 }) ∧
    (s.phase = .idle → s.valid = false →
      exec i s = .next { s with err := true, errCode := if s.err then s.errCode else 7 })

/-- R184: CRC_INIT, the bytes of a message and CRC_FINAL compute what the bitwise reference computes: ACC is its register
after every byte, RESULT its CRC. -/
def Obligations.MessageCrcEqualsTheBitwiseReference : Prop :=
  ∀ (s : State) (msg : List Byte), s.phase = .idle → s.valid = true → s.act.Valid s.wMax → Built s →
    (∃ t, runCommands (messageCommands msg) s = .next t ∧ t.acc = crcRefRegister s.act msg) ∧
    ∃ t, runCommands (messageCommands msg ++ [.crcFinal]) s = .next t ∧ t.acc = crcRefRegister s.act msg ∧
      t.result = crcRef s.act msg

/-- R214: a command has its whole effect, or it is refused and does nothing but `raise Error`. That TABLE
after an ABORT of a running generation is a new draw is the model's reading of I1 and R145 (log entries 9 and 14). -/
def Obligations.CommandsAreAllOrNothing : Prop :=
  ∀ (i : Instr) (s : State),
    (∃ c : BitVec 4, c ≠ 0 ∧ exec i s = .next { s with err := true, errCode := if s.err then s.errCode else c }) ∨
    exec i s = .next
      (match i with
       | .nop => s
       | .generate => acceptGenerate s
       | .abort => if s.phase = .idle then s else { s with phase := .idle, table := [], draws := s.draws + 1 }
       | .ack => { s with done := false, err := false, errCode := 0 }
       | .crcInit => { s with acc := s.act.initialRemainder }
       | .crcUpdate b => { s with acc := updatedAcc s b }
       | .crcFinal => { s with result := finishedCrc s })

/-- The frame of the seven commands: TABLE is changed by none but an ABORT of a running generation, after which it is any
value (I1; log entry 14); the pending configuration, the interrupt enables and W_MAX are changed by none; the
latched configuration, VALID, IDX, BITCNT and REM by GENERATE only; PHASE by GENERATE and ABORT; DONE by GENERATE and ACK; ACC
by GENERATE, CRC_INIT and CRC_UPDATE; RESULT by GENERATE and CRC_FINAL; ERR and ERR_CODE not by NOP and ABORT. -/
def Obligations.CommandFrames : Prop :=
  ∀ (i : Instr) (s t : State), exec i s = .next t →
    (i ≠ .abort ∨ s.phase = .idle →
      (∀ d : Byte, t.tableRead d = s.tableRead d) ∧ t.table = s.table ∧ t.draws = s.draws) ∧
    t.pending = s.pending ∧ t.doneIe = s.doneIe ∧ t.errIe = s.errIe ∧ t.wMax = s.wMax ∧ t.powerLost = s.powerLost ∧
    t.inputs = s.inputs ∧ t.rsp = s.rsp ∧
    (i ≠ .generate → t.act = s.act ∧ t.valid = s.valid ∧ t.idx = s.idx ∧ t.bitcnt = s.bitcnt ∧ t.rem = s.rem) ∧
    (i ≠ .generate → i ≠ .abort → t.phase = s.phase) ∧ (i ≠ .generate → i ≠ .ack → t.done = s.done) ∧
    (i ≠ .generate → i ≠ .crcInit → (∀ b, i ≠ .crcUpdate b) → t.acc = s.acc) ∧
    (i ≠ .generate → i ≠ .crcFinal → t.result = s.result) ∧
    (i = .nop ∨ i = .abort → t.err = s.err ∧ t.errCode = s.errCode)

/-! ## A step of the machine -/

/-- 93_implementation_defined.md: every access and every command word has exactly one outcome: every command and every step
answer a next state. No step changes the parameter W_MAX (R5). -/
def Obligations.NothingStopsTheBlock : Prop :=
  (∀ (i : Instr) (s : State), ∃ t, exec i s = .next t) ∧ ∀ s : State, ∃ t, step s = .next t ∧ t.wMax = s.wMax

/-- R275: a cycle is the sequencer's step, then the access against the state it left. -/
def Obligations.CycleIsSequencerThenAccess : Prop :=
  ∀ s : State, s.powerLost = false →
    (nextEvent s = .cycle none → step s = .next { afterSequencer s with rsp := none }) ∧
    ∀ a : Access, nextEvent s = .cycle (some a) → step s = accessWith exec a (afterSequencer s)

/-- R213: a step whose access writes a word to CMD runs the command it decodes to, or records ILLEGAL_CMD (R95), and the
access is answered OKAY (R22), with no read data, which is the model's choice (log entry 3). The last clause says it of the word `withFetchWord` places: the very next step runs that
command (log entry 4). -/
def Obligations.CmdWriteRunsTheDecodedCommand : Prop :=
  (∀ (s : State) (w : Word), s.powerLost = false →
    nextEvent s = .cycle (some { write := true, addr := 0x008, size := 8, wdata := w }) →
    (∀ i, decode w = .command i → step s = onNext (exec i (afterSequencer s)) (respond { rdata := none, err := false })) ∧
    (∀ why, decode w = .illegal why → step s = .next (respond { rdata := none, err := false }
      { afterSequencer s with
        err := true, errCode := if (afterSequencer s).err then (afterSequencer s).errCode else 5 }))) ∧
  ∀ (s : State) (w : Word) (i : Instr), s.powerLost = false → decode w = .command i →
    step (s.withFetchWord 64 w.toNat) = onNext (exec i (sequencerStep s)) (respond { rdata := none, err := false })

/-- R245: a command records at most one error, chosen by decode, then BUSY, then GENERATE's checks or NOT_READY. -/
def Obligations.CommandErrorsByPriority : Prop :=
  ∀ (s : State) (w : Word), s.powerLost = false → nextEvent s = .cycle (some (cmdWrite w)) →
    let u := afterSequencer s
    u.err = false → u.errCode = 0 →
    let code : ErrCode :=
      match decode w with
      | .illegal _ => .illegalCmd
      | .command .generate => if u.phase ≠ .idle then .busy else (checkConfig u.wMax u.pending).getD .none
      | .command .crcInit => if u.phase ≠ .idle then .busy else if u.valid then .none else .notReady
      | .command (.crcUpdate _) => if u.phase ≠ .idle then .busy else if u.valid then .none else .notReady
      | .command .crcFinal => if u.phase ≠ .idle then .busy else if u.valid then .none else .notReady
      | .command .nop => .none
      | .command .abort => .none
      | .command .ack => .none
    ∃ t, step s = .next t ∧ t.errCode = code.code ∧ t.err = decide (code ≠ .none)

/-- R246: in the cycle of the final STORE the access finds the finished table: CRC_INIT is accepted, ACK clears the DONE just
set, an error is recorded beside DONE; and reset overrides everything. -/
def Obligations.FinalStoreComesBeforeTheAccess : Prop :=
  ∀ s : State, s.powerLost = false → s.phase = .store → s.idx = 255 →
    (nextEvent s = .cycle (some (cmdWrite (encode .crcInit))) →
      ∃ t, step s = .next t ∧ t.acc = s.act.initialRemainder ∧ t.err = s.err ∧ t.valid = true ∧ t.done = true) ∧
    (nextEvent s = .cycle (some (cmdWrite (encode .ack))) →
      ∃ t, step s = .next t ∧ t.done = false ∧ t.err = false ∧ t.valid = true) ∧
    (∀ w why, decode w = .illegal why → nextEvent s = .cycle (some (cmdWrite w)) →
      ∃ t, step s = .next t ∧ t.done = true ∧ t.err = true) ∧
    (∀ req, nextEvent s = .resetLow req →
      ∃ t, step s = .next t ∧ t.phase = .idle ∧ t.valid = false ∧ t.done = false ∧ t.err = false)

/-! ## Errors, interrupt, STATUS -/

/-- R241: the first error is recorded, a later one absorbed, and raising one changes nothing else. -/
def Obligations.FirstErrorIsKept : Prop :=
  ∀ (c : ErrCode) (s : State),
    (s.err = false → raiseError c s = { s with err := true, errCode := c.code }) ∧
    (s.err = true → raiseError c s = s)

/-- R243: the interrupt level, and that STATUS.IRQ shows it. -/
def Obligations.IrqIsTheMaskedLevel : Prop :=
  ∀ s : State,
    (s.irq = true ↔ (s.done = true ∧ s.doneIe = true) ∨ (s.err = true ∧ s.errIe = true)) ∧
    s.statusWord.getLsbD 4 = s.irq

/-- R21, R23, R30, R32, R33, R35: the numbers that reads of ID, CFG, STATUS and IRQ_EN return, with the numbers of PHASE. -/
def Obligations.RegisterFormats : Prop :=
  ∀ s : State,
    let phase : Nat :=
      match s.phase with
      | .idle => 0
      | .load => 1
      | .step => 2
      | .store => 3
    readRegister .id s = idWord s.wMax ∧ readRegister .cfg s = cfgWord s.pending ∧
    readRegister .status s = s.statusWord ∧ readRegister .irqEn s = irqEnWord s ∧
    (idWord s.wMax).toNat = 0x43524354 * 2 ^ 32 + s.wMax.bits * 2 ^ 8 + 1 ∧
    (cfgWord s.pending).toNat =
      s.pending.reflectOutput.toNat * 2 ^ 9 + s.pending.reflectInput.toNat * 2 ^ 8 + s.pending.width.toNat ∧
    s.statusWord.toNat =
      phase * 2 ^ 28 + s.bitcnt.toNat * 2 ^ 24 + s.idx.toNat * 2 ^ 16 + s.errCode.toNat * 2 ^ 8 +
        s.irq.toNat * 2 ^ 4 + s.err.toNat * 2 ^ 3 + s.done.toNat * 2 ^ 2 + s.valid.toNat * 2 +
        (decide (s.phase ≠ .idle)).toNat ∧
    (irqEnWord s).toNat = s.errIe.toNat * 2 + s.doneIe.toNat

/-! ## The host port -/

/-- R62, R63, I11: an access, read or write, that is not 8 bytes wide or not aligned is answered SLVERR with data 0 and
changes nothing, whatever else holds of it. -/
def Obligations.NarrowAndMisalignedAccessesAreRefused : Prop :=
  ∀ (s : State) (a : Access), s.powerLost = false → nextEvent s = .cycle (some a) →
    a.size ≠ 8 ∨ a.addr.toNat % 8 ≠ 0 →
    step s = .next (respond { rdata := some 0, err := true } (afterSequencer s))

/-- R64: the register region. Reads return the value of R21 to R39 (CMD reads 0; the numbers of the four words are in
RegisterFormats, those of the offsets in StatementsAreTheirAccesses), the reserved offsets and the writes to read-only registers are
refused; none of these changes state. -/
def Obligations.RegisterRegionAnswers : Prop :=
  ∀ (s : State) (v : Word), s.powerLost = false →
    let u := afterSequencer s
    let value : Reg → Word := fun r =>
      match r with
      | .id => idWord u.wMax
      | .cmd => 0
      | .cfg => cfgWord u.pending
      | .poly => u.pending.polynomial
      | .init => u.pending.initialRemainder
      | .xorout => u.pending.finalXor
      | .status => u.statusWord
      | .irqEn => irqEnWord u
      | .result => u.result
      | .acc => u.acc
    (∀ r : Reg, nextEvent s = .cycle (some { write := false, addr := regOffset r, size := 8, wdata := v }) →
      step s = .next (respond { rdata := some (value r), err := false } u)) ∧
    (∀ r : Reg, r = .id ∨ r = .status ∨ r = .result ∨ r = .acc →
      nextEvent s = .cycle (some { write := true, addr := regOffset r, size := 8, wdata := v }) →
      ∃ q, step s = .next (respond { rdata := q, err := true } u)) ∧
    ∀ (a : BitVec 12) (wr : Bool), 0x050 ≤ a.toNat → a.toNat ≤ 0x7F8 → a.toNat % 8 = 0 →
      nextEvent s = .cycle (some { write := wr, addr := a, size := 8, wdata := v }) →
      step s = .next (respond { rdata := some 0, err := true } u)

/-- R65: the table window. A read of entry i returns it while VALID = 1 and is refused while VALID = 0; a write is always
refused; none changes state. -/
def Obligations.TableWindowAnswers : Prop :=
  ∀ (s : State) (i : Byte) (v : Word), s.powerLost = false →
    let u := afterSequencer s
    let a : BitVec 12 := BitVec.ofNat 12 (0x800 + 8 * i.toNat)
    (nextEvent s = .cycle (some { write := false, addr := a, size := 8, wdata := v }) →
      (u.valid = true → step s = .next (respond { rdata := some (u.tableRead i), err := false } u)) ∧
      (u.valid = false → step s = .next (respond { rdata := some 0, err := true } u))) ∧
    (nextEvent s = .cycle (some { write := true, addr := a, size := 8, wdata := v }) →
      ∃ q, step s = .next (respond { rdata := q, err := true } u))

/-- R66 for reads: no read of any offset and size changes state, and a second read with nothing between them answers the
same; writes of CFG, POLY, INIT, XOROUT and IRQ_EN are idempotent. -/
def Obligations.ReadsChangeNothing : Prop :=
  (∀ (s : State) (a : Access), s.powerLost = false → nextEvent s = .cycle (some a) → a.write = false →
    ∃ r, step s = .next { afterSequencer s with rsp := some r } ∧
      memRead a.addr a.size { afterSequencer s with rsp := some r } = r) ∧
  ∀ (r : Reg) (v : Word) (s : State), r = .cfg ∨ r = .poly ∨ r = .init ∨ r = .xorout ∨ r = .irqEn →
    writeRegister r v (writeRegister r v s) = writeRegister r v s

/-- R215: the effect of an admitted write to CFG, POLY, INIT, XOROUT and IRQ_EN, whatever the value and the state, answered
OKAY; everything else is unchanged. That the answer carries no read data is the model's choice (log entry 3). (A write to CMD
is in CmdWriteRunsTheDecodedCommand.) -/
def Obligations.RegisterWritesTakeEffect : Prop :=
  ∀ (s : State) (v : Word), s.powerLost = false →
    let u := afterSequencer s
    let okay : Response := { rdata := none, err := false }
    (nextEvent s = .cycle (some { write := true, addr := 0x010, size := 8, wdata := v }) →
      step s = .next (respond okay { u with pending := { u.pending with
        width := BitVec.ofNat 8 v.toNat, reflectInput := v.toNat.testBit 8, reflectOutput := v.toNat.testBit 9 } })) ∧
    (nextEvent s = .cycle (some { write := true, addr := 0x018, size := 8, wdata := v }) →
      step s = .next (respond okay { u with pending := { u.pending with polynomial := v } })) ∧
    (nextEvent s = .cycle (some { write := true, addr := 0x020, size := 8, wdata := v }) →
      step s = .next (respond okay { u with pending := { u.pending with initialRemainder := v } })) ∧
    (nextEvent s = .cycle (some { write := true, addr := 0x028, size := 8, wdata := v }) →
      step s = .next (respond okay { u with pending := { u.pending with finalXor := v } })) ∧
    (nextEvent s = .cycle (some { write := true, addr := 0x038, size := 8, wdata := v }) →
      step s = .next (respond okay { u with doneIe := v.toNat.testBit 0, errIe := v.toNat.testBit 1 }))

/-- R249: an access answered SLVERR changes no state: nothing is recorded in STATUS. -/
def Obligations.RefusedAccessesChangeNothing : Prop :=
  ∀ (s t : State) (a : Access) (r : Response), s.powerLost = false → nextEvent s = .cycle (some a) → step s = .next t →
    t.rsp = some r → r.err = true → t = { afterSequencer s with rsp := some r }

/-! ## What changes what -/

/-- R40: VALID becomes 1 only by the STORE of entry 255, and 0 only by reset or an accepted GENERATE (or when power is removed, which
the last hypothesis leaves out). -/
def Obligations.OnlyTheLastStoreSetsValid : Prop :=
  ∀ s t : State, s.powerLost = false → step s = .next t → t.powerLost = false →
    (s.valid = false → t.valid = true → s.phase = .store ∧ s.idx = 255) ∧
    (s.valid = true → t.valid = false →
      (∃ req, nextEvent s = .resetLow req) ∨
        (issuedCommand (nextEvent s) = some .generate ∧ (afterSequencer s).phase = .idle ∧
          checkConfig s.wMax s.pending = none))

/-- R41: DONE is set by the STORE of entry 255, cleared by reset, ACK and an accepted GENERATE, and written by nothing
else. -/
def Obligations.OnlyTheLastStoreSetsDone : Prop :=
  ∀ s t : State, s.powerLost = false → step s = .next t → t.powerLost = false →
    let e := nextEvent s
    let accepted := issuedCommand e = some .generate ∧ (afterSequencer s).phase = .idle ∧
      checkConfig s.wMax s.pending = none
    ((∃ req, e = .resetLow req) ∨ issuedCommand e = some .ack ∨ accepted → t.done = false) ∧
    (¬ ((∃ req, e = .resetLow req) ∨ issuedCommand e = some .ack ∨ accepted) →
      ((∃ req, e = .cycle req) ∧ s.phase = .store ∧ s.idx = 255 → t.done = true) ∧
      (¬ ((∃ req, e = .cycle req) ∧ s.phase = .store ∧ s.idx = 255) → t.done = s.done))

/-- R42: ERR is set only by a command written to CMD and cleared only by reset and ACK; ERR_CODE changes only where ERR was
0, by an error, or by ACK and reset, which set it to 0. -/
def Obligations.OnlyAckAndResetClearErr : Prop :=
  ∀ s t : State, s.powerLost = false → step s = .next t → t.powerLost = false →
    let e := nextEvent s
    (s.err = false → t.err = true → ∃ w, writtenCommand e = some w) ∧
    (s.err = true → t.err = false → (∃ req, e = .resetLow req) ∨ issuedCommand e = some .ack) ∧
    ((∃ req, e = .resetLow req) ∨ issuedCommand e = some .ack → t.err = false ∧ t.errCode = 0) ∧
    (¬ ((∃ req, e = .resetLow req) ∨ issuedCommand e = some .ack) → t.errCode ≠ s.errCode → s.err = false ∧ t.err = true)

/-- R37: in a cycle, TABLE is written by the STORE phase only, at entry IDX, with the finished remainder. (A cycle in which a
running generation is aborted leaves TABLE any value, I1: log entry 14.) -/
def Obligations.OnlyStoreWritesTheTable : Prop :=
  ∀ (s t : State) (req : Option Access), s.powerLost = false → nextEvent s = .cycle req → step s = .next t →
    ¬ (issuedCommand (nextEvent s) = some .abort ∧ (afterSequencer s).phase ≠ .idle) →
    ∀ d : Byte, t.tableRead d =
      if s.phase = .store ∧ d = s.idx then reflectWord s.act.reflectOutput s.act.width.toNat s.rem else s.tableRead d

/-- R36, R38, R39, of a cycle: the latched configuration is written only when GENERATE is accepted, and then takes the pending
one; ACC is changed only by GENERATE, CRC_INIT and CRC_UPDATE, RESULT only by GENERATE and CRC_FINAL. -/
def Obligations.WhoWritesActAccAndResult : Prop :=
  ∀ (s t : State) (req : Option Access), s.powerLost = false → nextEvent s = .cycle req → step s = .next t →
    (issuedCommand (nextEvent s) = some .generate ∧ (afterSequencer s).phase = .idle ∧
      checkConfig s.wMax s.pending = none → t.act = s.pending) ∧
    (¬ (issuedCommand (nextEvent s) = some .generate ∧ (afterSequencer s).phase = .idle ∧
      checkConfig s.wMax s.pending = none) → t.act = s.act) ∧
    (t.acc ≠ s.acc → issuedCommand (nextEvent s) = some .generate ∨ issuedCommand (nextEvent s) = some .crcInit ∨
      ∃ b, issuedCommand (nextEvent s) = some (.crcUpdate b)) ∧
    (t.result ≠ s.result → issuedCommand (nextEvent s) = some .generate ∨ issuedCommand (nextEvent s) = some .crcFinal)

/-- R29: the pending configuration influences nothing until GENERATE: two machines that differ in it alone, and take the same
step with any event that is not a GENERATE, differ at most in it, and in what the port answers to a read of CFG, POLY, INIT
or XOROUT. -/
def Obligations.PendingConfigurationWaitsForGenerate : Prop :=
  ∀ (s t : State) (p : CrcConfig), step s = .next t → issuedCommand (nextEvent s) ≠ some .generate →
    ∃ q r, step { s with pending := p } = .next { t with pending := q, rsp := r } ∧
      (r = t.rsp ∨ ∃ a, nextEvent s = .cycle (some a) ∧ a.write = false ∧
        (a.addr = 0x010 ∨ a.addr = 0x018 ∨ a.addr = 0x020 ∨ a.addr = 0x028))

/-- R71, R65: a read of the table window that is answered OKAY returns the entry of the completed table of the latched
configuration. -/
def Obligations.TableReadsReturnTheBuiltTable : Prop :=
  ∀ (s t : State) (i : Byte) (v : Word), s.powerLost = false → Built s →
    nextEvent s = .cycle (some (stmtAccess (.rdt i.toNat))) → step s = .next t →
    t.rsp = some { rdata := some v, err := false } →
    t.valid = true ∧ v = entry i t.act ∧ ∀ d : Byte, t.tableRead d = entry d t.act

/-! ## Reset, clock and power -/

/-- R44: the values after reset; of TABLE, which is unspecified, nothing is said. The model's own fields (inputs, rsp, powerLost, draws) are log entries 1, 2, 12 and 9. -/
def Obligations.ResetValues : Prop :=
  let s := State.reset
  s.pending = { width := 16, polynomial := 0x1021, initialRemainder := 0, finalXor := 0, reflectInput := false,
                reflectOutput := false } ∧
  s.act = s.pending ∧ s.valid = false ∧ s.done = false ∧ s.err = false ∧ s.errCode = 0 ∧ s.phase = .idle ∧ s.idx = 0 ∧
  s.bitcnt = 0 ∧ s.rem = 0 ∧ s.doneIe = false ∧ s.errIe = false ∧ s.acc = 0 ∧ s.result = 0 ∧ s.irq = false

/-- R270, R272: while rst_n is low every register but TABLE holds its reset value (R44; ACT_POLY with W_MAX = 8 is log
entry 6), whatever was going on and whether or not
power was removed before; TABLE lists nothing that was written; a presented access is answered SLVERR with data 0. -/
def Obligations.ResetHoldsTheResetState : Prop :=
  ∀ (s : State) (req : Option Access), nextEvent s = .resetLow req →
    ∃ t, step s = .next t ∧ t.wMax = s.wMax ∧
      t.pending = { width := 16, polynomial := 0x1021, initialRemainder := 0, finalXor := 0, reflectInput := false,
                    reflectOutput := false } ∧
      t.act.width = 16 ∧ t.act.polynomial.toNat = 0x1021 % 2 ^ s.wMax.bits ∧ t.act.initialRemainder = 0 ∧
      t.act.finalXor = 0 ∧ t.act.reflectInput = false ∧ t.act.reflectOutput = false ∧ t.phase = .idle ∧ t.valid = false ∧ t.done = false ∧ t.err = false ∧
      t.errCode = 0 ∧ t.idx = 0 ∧ t.bitcnt = 0 ∧ t.rem = 0 ∧ t.doneIe = false ∧ t.errIe = false ∧ t.acc = 0 ∧
      t.result = 0 ∧ t.irq = false ∧ t.table = [] ∧ t.powerLost = false ∧
      (req = none → t.rsp = none) ∧ (req ≠ none → t.rsp = some { rdata := some 0, err := true })

/-- R255: a stopped clock changes nothing but that the event is past and nothing was answered; removed power lasts until
reset is asserted. -/
def Obligations.ClockAndPower : Prop :=
  (∀ s : State, s.powerLost = false → nextEvent s = .clockStopped →
    step s = .next { takeEvent s with rsp := none }) ∧
  (∀ s : State, nextEvent s = .powerRemoved → ∃ t, step s = .next t ∧ t.powerLost = true) ∧
  ∀ s : State, s.powerLost = true → (∀ req, nextEvent s ≠ .resetLow req) →
    ∃ t, step s = .next t ∧ t.powerLost = true

/-! ## Invariants -/

/-- The reset state of every W_MAX meets both invariants. -/
def Obligations.ResetMeetsTheInvariants : Prop :=
  ∀ (m : WMax) (inputs : List HostEvent),
    InRange { State.resetWith m with inputs := inputs } ∧ Built { State.resetWith m with inputs := inputs }

/-- Every step keeps the invariant of R43, from every state that meets it. -/
def Obligations.StepsKeepRegistersInRange : Prop :=
  ∀ s t : State, WhilePowered InRange s → step s = .next t → WhilePowered InRange t

/-- R40, R155 as an invariant of every step: TABLE is the table of ACT_* as far as it was built, and all of it while
VALID = 1. -/
def Obligations.StepsKeepTheTableCorrect : Prop :=
  ∀ s t : State, WhilePowered Built s → step s = .next t → WhilePowered Built t

/-- R43 of every reachable state, whatever the host does and the platform does (a state without power has no values to speak
of, log entry 12). -/
def Obligations.ReachableStatesAreInRange : Prop :=
  ∀ s : State, Reachable s → s.powerLost = false →
    (s.phase ≠ .idle → s.rem.toNat < 2 ^ s.act.width.toNat ∧ Supported s.wMax s.act.width.toNat) ∧
    (s.valid = true → ∀ d : Byte, (s.tableRead d).toNat < 2 ^ s.act.width.toNat) ∧
    s.acc.toNat < 2 ^ s.act.width.toNat ∧ s.result.toNat < 2 ^ s.act.width.toNat ∧
    (s.err = false → s.errCode = 0) ∧ s.bitcnt.toNat ≤ 8

/-! ## The host assembly -/

/-- R97: the access every statement is, with the ten register offsets. -/
def Obligations.StatementsAreTheirAccesses : Prop :=
  let off : Reg → BitVec 12 := fun r =>
    match r with
    | .id => 0x000
    | .cmd => 0x008
    | .cfg => 0x010
    | .poly => 0x018
    | .init => 0x020
    | .xorout => 0x028
    | .status => 0x030
    | .irqEn => 0x038
    | .result => 0x040
    | .acc => 0x048
  (∀ r : Reg, regOffset r = off r) ∧
  (∀ (r : Reg) (v : Nat), v < 2 ^ 64 →
    (stmtAccess (.wr r v)).write = true ∧ (stmtAccess (.wr r v)).addr = off r ∧ (stmtAccess (.wr r v)).size = 8 ∧
      (stmtAccess (.wr r v)).wdata.toNat = v) ∧
  (∀ r : Reg, (stmtAccess (.rd r)).write = false ∧ (stmtAccess (.rd r)).addr = off r ∧ (stmtAccess (.rd r)).size = 8) ∧
  (∀ i : Nat, i < 256 → (stmtAccess (.rdt i)).write = false ∧ (stmtAccess (.rdt i)).addr.toNat = 0x800 + 8 * i ∧
    (stmtAccess (.rdt i)).size = 8) ∧
  (∀ i : Instr, stmtAccess (.command i) = { write := true, addr := 0x008, size := 8, wdata := encode i }) ∧
  ∀ b : Byte, (stmtAccess (.command (.crcUpdate b))).wdata.toNat = 0x05 + 256 * b.toNat

/-- R98: CONFIG writes the pending configuration it names, whatever the block is doing. -/
def Obligations.ConfigWritesThePendingConfiguration : Prop :=
  ∀ (s : State) (fuel w p i x ri ro : Nat), s.powerLost = false →
    (HostOp.config w p i x ri ro).wellFormed = true →
    ∃ t, runProgram fuel [.config w p i x ri ro] s = some t ∧ t.act = s.act ∧
      t.pending = { width := BitVec.ofNat 8 w, polynomial := BitVec.ofNat 64 p, initialRemainder := BitVec.ofNat 64 i,
                    finalXor := BitVec.ofNat 64 x, reflectInput := decide (ri = 1), reflectOutput := decide (ro = 1) }

/-- R98: WAIT_IDLE after an accepted GENERATE ends with its 2560th read and finds the finished table; with no generation
running it ends with its first. -/
def Obligations.WaitIdleEnds : Prop :=
  (∀ s : State, s.powerLost = false → s.phase = .load → s.idx = 0 → s.bitcnt = 0 → s.valid = false →
    (∃ t, runProgram 2560 [.waitIdle] s = some t ∧ t.valid = true ∧ t.phase = .idle ∧
      ∀ d : Byte, t.tableRead d = entry d s.act) ∧
    runProgram 2559 [.waitIdle] s = none) ∧
  ∀ s : State, s.powerLost = false → s.phase = .idle → ∃ t, runProgram 1 [.waitIdle] s = some t

/-- R6, R61, R67: BASE is a multiple of 0x1000, an offset is found again from its address, no address outside the 4 KiB window
is the block's; byte lane k carries bits [8k+7:8k] of a value, and the eight lanes give the value back. -/
def Obligations.WindowAndByteLanesOfTheBlock : Prop :=
  (∀ w : Word, (∀ k j : Nat, k < 8 → j < 8 → (byteLane w k).getLsbD j = w.getLsbD (8 * k + j)) ∧
    wordOfLanes (byteLanes w) = w) ∧
  Config.base % 0x1000 = 0 ∧ (∀ a : BitVec 12, offsetOf (addressOf a) = some a) ∧
  ∀ x : Nat, offsetOf x = none ↔ x < Config.base ∨ Config.base + 0x1000 ≤ x
end

