-- ==== Sys2Proof/Laws/State.lean ====
section
/-! SUPPORT. One lemma per field per shared update of the state, so that no proof unfolds an update. -/

namespace Sys2Proof.Machine

/-! ## raiseError -/

@[simp] theorem raiseError_wMax (c : ErrCode) (s : State) : (raiseError c s).wMax = s.wMax := rfl
@[simp] theorem raiseError_pending (c : ErrCode) (s : State) : (raiseError c s).pending = s.pending := rfl
@[simp] theorem raiseError_act (c : ErrCode) (s : State) : (raiseError c s).act = s.act := rfl
@[simp] theorem raiseError_table (c : ErrCode) (s : State) : (raiseError c s).table = s.table := rfl
@[simp] theorem raiseError_valid (c : ErrCode) (s : State) : (raiseError c s).valid = s.valid := rfl
@[simp] theorem raiseError_done (c : ErrCode) (s : State) : (raiseError c s).done = s.done := rfl
@[simp] theorem raiseError_err (c : ErrCode) (s : State) : (raiseError c s).err = true := rfl
@[simp] theorem raiseError_errCode (c : ErrCode) (s : State) : (raiseError c s).errCode = (if s.err then s.errCode else c.code) := rfl
@[simp] theorem raiseError_phase (c : ErrCode) (s : State) : (raiseError c s).phase = s.phase := rfl
@[simp] theorem raiseError_idx (c : ErrCode) (s : State) : (raiseError c s).idx = s.idx := rfl
@[simp] theorem raiseError_bitcnt (c : ErrCode) (s : State) : (raiseError c s).bitcnt = s.bitcnt := rfl
@[simp] theorem raiseError_rem (c : ErrCode) (s : State) : (raiseError c s).rem = s.rem := rfl
@[simp] theorem raiseError_doneIe (c : ErrCode) (s : State) : (raiseError c s).doneIe = s.doneIe := rfl
@[simp] theorem raiseError_errIe (c : ErrCode) (s : State) : (raiseError c s).errIe = s.errIe := rfl
@[simp] theorem raiseError_acc (c : ErrCode) (s : State) : (raiseError c s).acc = s.acc := rfl
@[simp] theorem raiseError_result (c : ErrCode) (s : State) : (raiseError c s).result = s.result := rfl
@[simp] theorem raiseError_powerLost (c : ErrCode) (s : State) : (raiseError c s).powerLost = s.powerLost := rfl
@[simp] theorem raiseError_draws (c : ErrCode) (s : State) : (raiseError c s).draws = s.draws := rfl
@[simp] theorem raiseError_inputs (c : ErrCode) (s : State) : (raiseError c s).inputs = s.inputs := rfl
@[simp] theorem raiseError_rsp (c : ErrCode) (s : State) : (raiseError c s).rsp = s.rsp := rfl

/-! ## forgetTable -/

@[simp] theorem forgetTable_wMax (s : State) : (forgetTable s).wMax = s.wMax := rfl
@[simp] theorem forgetTable_pending (s : State) : (forgetTable s).pending = s.pending := rfl
@[simp] theorem forgetTable_act (s : State) : (forgetTable s).act = s.act := rfl
@[simp] theorem forgetTable_table (s : State) : (forgetTable s).table = [] := rfl
@[simp] theorem forgetTable_valid (s : State) : (forgetTable s).valid = s.valid := rfl
@[simp] theorem forgetTable_done (s : State) : (forgetTable s).done = s.done := rfl
@[simp] theorem forgetTable_err (s : State) : (forgetTable s).err = s.err := rfl
@[simp] theorem forgetTable_errCode (s : State) : (forgetTable s).errCode = s.errCode := rfl
@[simp] theorem forgetTable_phase (s : State) : (forgetTable s).phase = s.phase := rfl
@[simp] theorem forgetTable_idx (s : State) : (forgetTable s).idx = s.idx := rfl
@[simp] theorem forgetTable_bitcnt (s : State) : (forgetTable s).bitcnt = s.bitcnt := rfl
@[simp] theorem forgetTable_rem (s : State) : (forgetTable s).rem = s.rem := rfl
@[simp] theorem forgetTable_doneIe (s : State) : (forgetTable s).doneIe = s.doneIe := rfl
@[simp] theorem forgetTable_errIe (s : State) : (forgetTable s).errIe = s.errIe := rfl
@[simp] theorem forgetTable_acc (s : State) : (forgetTable s).acc = s.acc := rfl
@[simp] theorem forgetTable_result (s : State) : (forgetTable s).result = s.result := rfl
@[simp] theorem forgetTable_powerLost (s : State) : (forgetTable s).powerLost = s.powerLost := rfl
@[simp] theorem forgetTable_draws (s : State) : (forgetTable s).draws = s.draws + 1 := rfl
@[simp] theorem forgetTable_inputs (s : State) : (forgetTable s).inputs = s.inputs := rfl
@[simp] theorem forgetTable_rsp (s : State) : (forgetTable s).rsp = s.rsp := rfl

/-! ## abortGeneration -/

@[simp] theorem abortGeneration_wMax (s : State) : (abortGeneration s).wMax = s.wMax := rfl
@[simp] theorem abortGeneration_pending (s : State) : (abortGeneration s).pending = s.pending := rfl
@[simp] theorem abortGeneration_act (s : State) : (abortGeneration s).act = s.act := rfl
@[simp] theorem abortGeneration_table (s : State) : (abortGeneration s).table = [] := rfl
@[simp] theorem abortGeneration_valid (s : State) : (abortGeneration s).valid = s.valid := rfl
@[simp] theorem abortGeneration_done (s : State) : (abortGeneration s).done = s.done := rfl
@[simp] theorem abortGeneration_err (s : State) : (abortGeneration s).err = s.err := rfl
@[simp] theorem abortGeneration_errCode (s : State) : (abortGeneration s).errCode = s.errCode := rfl
@[simp] theorem abortGeneration_phase (s : State) : (abortGeneration s).phase = .idle := rfl
@[simp] theorem abortGeneration_idx (s : State) : (abortGeneration s).idx = s.idx := rfl
@[simp] theorem abortGeneration_bitcnt (s : State) : (abortGeneration s).bitcnt = s.bitcnt := rfl
@[simp] theorem abortGeneration_rem (s : State) : (abortGeneration s).rem = s.rem := rfl
@[simp] theorem abortGeneration_doneIe (s : State) : (abortGeneration s).doneIe = s.doneIe := rfl
@[simp] theorem abortGeneration_errIe (s : State) : (abortGeneration s).errIe = s.errIe := rfl
@[simp] theorem abortGeneration_acc (s : State) : (abortGeneration s).acc = s.acc := rfl
@[simp] theorem abortGeneration_result (s : State) : (abortGeneration s).result = s.result := rfl
@[simp] theorem abortGeneration_powerLost (s : State) : (abortGeneration s).powerLost = s.powerLost := rfl
@[simp] theorem abortGeneration_draws (s : State) : (abortGeneration s).draws = s.draws + 1 := rfl
@[simp] theorem abortGeneration_inputs (s : State) : (abortGeneration s).inputs = s.inputs := rfl
@[simp] theorem abortGeneration_rsp (s : State) : (abortGeneration s).rsp = s.rsp := rfl

/-! ## acknowledge -/

@[simp] theorem acknowledge_wMax (s : State) : (acknowledge s).wMax = s.wMax := rfl
@[simp] theorem acknowledge_pending (s : State) : (acknowledge s).pending = s.pending := rfl
@[simp] theorem acknowledge_act (s : State) : (acknowledge s).act = s.act := rfl
@[simp] theorem acknowledge_table (s : State) : (acknowledge s).table = s.table := rfl
@[simp] theorem acknowledge_valid (s : State) : (acknowledge s).valid = s.valid := rfl
@[simp] theorem acknowledge_done (s : State) : (acknowledge s).done = false := rfl
@[simp] theorem acknowledge_err (s : State) : (acknowledge s).err = false := rfl
@[simp] theorem acknowledge_errCode (s : State) : (acknowledge s).errCode = 0 := rfl
@[simp] theorem acknowledge_phase (s : State) : (acknowledge s).phase = s.phase := rfl
@[simp] theorem acknowledge_idx (s : State) : (acknowledge s).idx = s.idx := rfl
@[simp] theorem acknowledge_bitcnt (s : State) : (acknowledge s).bitcnt = s.bitcnt := rfl
@[simp] theorem acknowledge_rem (s : State) : (acknowledge s).rem = s.rem := rfl
@[simp] theorem acknowledge_doneIe (s : State) : (acknowledge s).doneIe = s.doneIe := rfl
@[simp] theorem acknowledge_errIe (s : State) : (acknowledge s).errIe = s.errIe := rfl
@[simp] theorem acknowledge_acc (s : State) : (acknowledge s).acc = s.acc := rfl
@[simp] theorem acknowledge_result (s : State) : (acknowledge s).result = s.result := rfl
@[simp] theorem acknowledge_powerLost (s : State) : (acknowledge s).powerLost = s.powerLost := rfl
@[simp] theorem acknowledge_draws (s : State) : (acknowledge s).draws = s.draws := rfl
@[simp] theorem acknowledge_inputs (s : State) : (acknowledge s).inputs = s.inputs := rfl
@[simp] theorem acknowledge_rsp (s : State) : (acknowledge s).rsp = s.rsp := rfl

/-! ## respond -/

@[simp] theorem respond_wMax (r : Response) (s : State) : (respond r s).wMax = s.wMax := rfl
@[simp] theorem respond_pending (r : Response) (s : State) : (respond r s).pending = s.pending := rfl
@[simp] theorem respond_act (r : Response) (s : State) : (respond r s).act = s.act := rfl
@[simp] theorem respond_table (r : Response) (s : State) : (respond r s).table = s.table := rfl
@[simp] theorem respond_valid (r : Response) (s : State) : (respond r s).valid = s.valid := rfl
@[simp] theorem respond_done (r : Response) (s : State) : (respond r s).done = s.done := rfl
@[simp] theorem respond_err (r : Response) (s : State) : (respond r s).err = s.err := rfl
@[simp] theorem respond_errCode (r : Response) (s : State) : (respond r s).errCode = s.errCode := rfl
@[simp] theorem respond_phase (r : Response) (s : State) : (respond r s).phase = s.phase := rfl
@[simp] theorem respond_idx (r : Response) (s : State) : (respond r s).idx = s.idx := rfl
@[simp] theorem respond_bitcnt (r : Response) (s : State) : (respond r s).bitcnt = s.bitcnt := rfl
@[simp] theorem respond_rem (r : Response) (s : State) : (respond r s).rem = s.rem := rfl
@[simp] theorem respond_doneIe (r : Response) (s : State) : (respond r s).doneIe = s.doneIe := rfl
@[simp] theorem respond_errIe (r : Response) (s : State) : (respond r s).errIe = s.errIe := rfl
@[simp] theorem respond_acc (r : Response) (s : State) : (respond r s).acc = s.acc := rfl
@[simp] theorem respond_result (r : Response) (s : State) : (respond r s).result = s.result := rfl
@[simp] theorem respond_powerLost (r : Response) (s : State) : (respond r s).powerLost = s.powerLost := rfl
@[simp] theorem respond_draws (r : Response) (s : State) : (respond r s).draws = s.draws := rfl
@[simp] theorem respond_inputs (r : Response) (s : State) : (respond r s).inputs = s.inputs := rfl
@[simp] theorem respond_rsp (r : Response) (s : State) : (respond r s).rsp = some r := rfl

/-! ## tableWrite -/

@[simp] theorem State.tableWrite_wMax (s : State) (i : Byte) (v : Word) : (s.tableWrite i v).wMax = s.wMax := rfl
@[simp] theorem State.tableWrite_pending (s : State) (i : Byte) (v : Word) : (s.tableWrite i v).pending = s.pending := rfl
@[simp] theorem State.tableWrite_act (s : State) (i : Byte) (v : Word) : (s.tableWrite i v).act = s.act := rfl
@[simp] theorem State.tableWrite_table (s : State) (i : Byte) (v : Word) : (s.tableWrite i v).table = tableInsert s.table i.toNat v := rfl
@[simp] theorem State.tableWrite_valid (s : State) (i : Byte) (v : Word) : (s.tableWrite i v).valid = s.valid := rfl
@[simp] theorem State.tableWrite_done (s : State) (i : Byte) (v : Word) : (s.tableWrite i v).done = s.done := rfl
@[simp] theorem State.tableWrite_err (s : State) (i : Byte) (v : Word) : (s.tableWrite i v).err = s.err := rfl
@[simp] theorem State.tableWrite_errCode (s : State) (i : Byte) (v : Word) : (s.tableWrite i v).errCode = s.errCode := rfl
@[simp] theorem State.tableWrite_phase (s : State) (i : Byte) (v : Word) : (s.tableWrite i v).phase = s.phase := rfl
@[simp] theorem State.tableWrite_idx (s : State) (i : Byte) (v : Word) : (s.tableWrite i v).idx = s.idx := rfl
@[simp] theorem State.tableWrite_bitcnt (s : State) (i : Byte) (v : Word) : (s.tableWrite i v).bitcnt = s.bitcnt := rfl
@[simp] theorem State.tableWrite_rem (s : State) (i : Byte) (v : Word) : (s.tableWrite i v).rem = s.rem := rfl
@[simp] theorem State.tableWrite_doneIe (s : State) (i : Byte) (v : Word) : (s.tableWrite i v).doneIe = s.doneIe := rfl
@[simp] theorem State.tableWrite_errIe (s : State) (i : Byte) (v : Word) : (s.tableWrite i v).errIe = s.errIe := rfl
@[simp] theorem State.tableWrite_acc (s : State) (i : Byte) (v : Word) : (s.tableWrite i v).acc = s.acc := rfl
@[simp] theorem State.tableWrite_result (s : State) (i : Byte) (v : Word) : (s.tableWrite i v).result = s.result := rfl
@[simp] theorem State.tableWrite_powerLost (s : State) (i : Byte) (v : Word) : (s.tableWrite i v).powerLost = s.powerLost := rfl
@[simp] theorem State.tableWrite_draws (s : State) (i : Byte) (v : Word) : (s.tableWrite i v).draws = s.draws := rfl
@[simp] theorem State.tableWrite_inputs (s : State) (i : Byte) (v : Word) : (s.tableWrite i v).inputs = s.inputs := rfl
@[simp] theorem State.tableWrite_rsp (s : State) (i : Byte) (v : Word) : (s.tableWrite i v).rsp = s.rsp := rfl

/-! ## presentFirst -/

@[simp] theorem presentFirst_wMax (e : HostEvent) (s : State) : (presentFirst e s).wMax = s.wMax := rfl
@[simp] theorem presentFirst_pending (e : HostEvent) (s : State) : (presentFirst e s).pending = s.pending := rfl
@[simp] theorem presentFirst_act (e : HostEvent) (s : State) : (presentFirst e s).act = s.act := rfl
@[simp] theorem presentFirst_table (e : HostEvent) (s : State) : (presentFirst e s).table = s.table := rfl
@[simp] theorem presentFirst_valid (e : HostEvent) (s : State) : (presentFirst e s).valid = s.valid := rfl
@[simp] theorem presentFirst_done (e : HostEvent) (s : State) : (presentFirst e s).done = s.done := rfl
@[simp] theorem presentFirst_err (e : HostEvent) (s : State) : (presentFirst e s).err = s.err := rfl
@[simp] theorem presentFirst_errCode (e : HostEvent) (s : State) : (presentFirst e s).errCode = s.errCode := rfl
@[simp] theorem presentFirst_phase (e : HostEvent) (s : State) : (presentFirst e s).phase = s.phase := rfl
@[simp] theorem presentFirst_idx (e : HostEvent) (s : State) : (presentFirst e s).idx = s.idx := rfl
@[simp] theorem presentFirst_bitcnt (e : HostEvent) (s : State) : (presentFirst e s).bitcnt = s.bitcnt := rfl
@[simp] theorem presentFirst_rem (e : HostEvent) (s : State) : (presentFirst e s).rem = s.rem := rfl
@[simp] theorem presentFirst_doneIe (e : HostEvent) (s : State) : (presentFirst e s).doneIe = s.doneIe := rfl
@[simp] theorem presentFirst_errIe (e : HostEvent) (s : State) : (presentFirst e s).errIe = s.errIe := rfl
@[simp] theorem presentFirst_acc (e : HostEvent) (s : State) : (presentFirst e s).acc = s.acc := rfl
@[simp] theorem presentFirst_result (e : HostEvent) (s : State) : (presentFirst e s).result = s.result := rfl
@[simp] theorem presentFirst_powerLost (e : HostEvent) (s : State) : (presentFirst e s).powerLost = s.powerLost := rfl
@[simp] theorem presentFirst_draws (e : HostEvent) (s : State) : (presentFirst e s).draws = s.draws := rfl
@[simp] theorem presentFirst_inputs (e : HostEvent) (s : State) : (presentFirst e s).inputs = e :: s.inputs := rfl
@[simp] theorem presentFirst_rsp (e : HostEvent) (s : State) : (presentFirst e s).rsp = s.rsp := rfl

/-! ## takeEvent and silent -/

@[simp] theorem takeEvent_wMax (s : State) : (takeEvent s).wMax = s.wMax := rfl
@[simp] theorem takeEvent_pending (s : State) : (takeEvent s).pending = s.pending := rfl
@[simp] theorem takeEvent_act (s : State) : (takeEvent s).act = s.act := rfl
@[simp] theorem takeEvent_table (s : State) : (takeEvent s).table = s.table := rfl
@[simp] theorem takeEvent_valid (s : State) : (takeEvent s).valid = s.valid := rfl
@[simp] theorem takeEvent_done (s : State) : (takeEvent s).done = s.done := rfl
@[simp] theorem takeEvent_err (s : State) : (takeEvent s).err = s.err := rfl
@[simp] theorem takeEvent_errCode (s : State) : (takeEvent s).errCode = s.errCode := rfl
@[simp] theorem takeEvent_phase (s : State) : (takeEvent s).phase = s.phase := rfl
@[simp] theorem takeEvent_idx (s : State) : (takeEvent s).idx = s.idx := rfl
@[simp] theorem takeEvent_bitcnt (s : State) : (takeEvent s).bitcnt = s.bitcnt := rfl
@[simp] theorem takeEvent_rem (s : State) : (takeEvent s).rem = s.rem := rfl
@[simp] theorem takeEvent_doneIe (s : State) : (takeEvent s).doneIe = s.doneIe := rfl
@[simp] theorem takeEvent_errIe (s : State) : (takeEvent s).errIe = s.errIe := rfl
@[simp] theorem takeEvent_acc (s : State) : (takeEvent s).acc = s.acc := rfl
@[simp] theorem takeEvent_result (s : State) : (takeEvent s).result = s.result := rfl
@[simp] theorem takeEvent_powerLost (s : State) : (takeEvent s).powerLost = s.powerLost := rfl
@[simp] theorem takeEvent_draws (s : State) : (takeEvent s).draws = s.draws := rfl
@[simp] theorem takeEvent_inputs (s : State) : (takeEvent s).inputs = s.inputs.tail := rfl
@[simp] theorem takeEvent_rsp (s : State) : (takeEvent s).rsp = s.rsp := rfl

@[simp] theorem silent_wMax (s : State) : (silent s).wMax = s.wMax := rfl
@[simp] theorem silent_pending (s : State) : (silent s).pending = s.pending := rfl
@[simp] theorem silent_act (s : State) : (silent s).act = s.act := rfl
@[simp] theorem silent_table (s : State) : (silent s).table = s.table := rfl
@[simp] theorem silent_valid (s : State) : (silent s).valid = s.valid := rfl
@[simp] theorem silent_done (s : State) : (silent s).done = s.done := rfl
@[simp] theorem silent_err (s : State) : (silent s).err = s.err := rfl
@[simp] theorem silent_errCode (s : State) : (silent s).errCode = s.errCode := rfl
@[simp] theorem silent_phase (s : State) : (silent s).phase = s.phase := rfl
@[simp] theorem silent_idx (s : State) : (silent s).idx = s.idx := rfl
@[simp] theorem silent_bitcnt (s : State) : (silent s).bitcnt = s.bitcnt := rfl
@[simp] theorem silent_rem (s : State) : (silent s).rem = s.rem := rfl
@[simp] theorem silent_doneIe (s : State) : (silent s).doneIe = s.doneIe := rfl
@[simp] theorem silent_errIe (s : State) : (silent s).errIe = s.errIe := rfl
@[simp] theorem silent_acc (s : State) : (silent s).acc = s.acc := rfl
@[simp] theorem silent_result (s : State) : (silent s).result = s.result := rfl
@[simp] theorem silent_powerLost (s : State) : (silent s).powerLost = s.powerLost := rfl
@[simp] theorem silent_draws (s : State) : (silent s).draws = s.draws := rfl
@[simp] theorem silent_inputs (s : State) : (silent s).inputs = s.inputs := rfl
@[simp] theorem silent_rsp (s : State) : (silent s).rsp = none := rfl

/-! ## acceptGenerate -/

@[simp] theorem acceptGenerate_wMax (s : State) : (acceptGenerate s).wMax = s.wMax := rfl
@[simp] theorem acceptGenerate_pending (s : State) : (acceptGenerate s).pending = s.pending := rfl
@[simp] theorem acceptGenerate_act (s : State) : (acceptGenerate s).act = s.pending := rfl
@[simp] theorem acceptGenerate_table (s : State) : (acceptGenerate s).table = s.table := rfl
@[simp] theorem acceptGenerate_valid (s : State) : (acceptGenerate s).valid = false := rfl
@[simp] theorem acceptGenerate_done (s : State) : (acceptGenerate s).done = false := rfl
@[simp] theorem acceptGenerate_err (s : State) : (acceptGenerate s).err = s.err := rfl
@[simp] theorem acceptGenerate_errCode (s : State) : (acceptGenerate s).errCode = s.errCode := rfl
@[simp] theorem acceptGenerate_phase (s : State) : (acceptGenerate s).phase = .load := rfl
@[simp] theorem acceptGenerate_idx (s : State) : (acceptGenerate s).idx = 0 := rfl
@[simp] theorem acceptGenerate_bitcnt (s : State) : (acceptGenerate s).bitcnt = 0 := rfl
@[simp] theorem acceptGenerate_rem (s : State) : (acceptGenerate s).rem = 0 := rfl
@[simp] theorem acceptGenerate_doneIe (s : State) : (acceptGenerate s).doneIe = s.doneIe := rfl
@[simp] theorem acceptGenerate_errIe (s : State) : (acceptGenerate s).errIe = s.errIe := rfl
@[simp] theorem acceptGenerate_acc (s : State) : (acceptGenerate s).acc = 0 := rfl
@[simp] theorem acceptGenerate_result (s : State) : (acceptGenerate s).result = 0 := rfl
@[simp] theorem acceptGenerate_powerLost (s : State) : (acceptGenerate s).powerLost = s.powerLost := rfl
@[simp] theorem acceptGenerate_draws (s : State) : (acceptGenerate s).draws = s.draws := rfl
@[simp] theorem acceptGenerate_inputs (s : State) : (acceptGenerate s).inputs = s.inputs := rfl
@[simp] theorem acceptGenerate_rsp (s : State) : (acceptGenerate s).rsp = s.rsp := rfl

/-! ## seqLoad -/

@[simp] theorem seqLoad_wMax (s : State) : (seqLoad s).wMax = s.wMax := rfl
@[simp] theorem seqLoad_pending (s : State) : (seqLoad s).pending = s.pending := rfl
@[simp] theorem seqLoad_act (s : State) : (seqLoad s).act = s.act := rfl
@[simp] theorem seqLoad_table (s : State) : (seqLoad s).table = s.table := rfl
@[simp] theorem seqLoad_valid (s : State) : (seqLoad s).valid = s.valid := rfl
@[simp] theorem seqLoad_done (s : State) : (seqLoad s).done = s.done := rfl
@[simp] theorem seqLoad_err (s : State) : (seqLoad s).err = s.err := rfl
@[simp] theorem seqLoad_errCode (s : State) : (seqLoad s).errCode = s.errCode := rfl
@[simp] theorem seqLoad_phase (s : State) : (seqLoad s).phase = .step := rfl
@[simp] theorem seqLoad_idx (s : State) : (seqLoad s).idx = s.idx := rfl
@[simp] theorem seqLoad_bitcnt (s : State) : (seqLoad s).bitcnt = 0 := rfl
@[simp] theorem seqLoad_rem (s : State) : (seqLoad s).rem = placeByte (reflectByte s.act.reflectInput s.idx) s.act.width.toNat := rfl
@[simp] theorem seqLoad_doneIe (s : State) : (seqLoad s).doneIe = s.doneIe := rfl
@[simp] theorem seqLoad_errIe (s : State) : (seqLoad s).errIe = s.errIe := rfl
@[simp] theorem seqLoad_acc (s : State) : (seqLoad s).acc = s.acc := rfl
@[simp] theorem seqLoad_result (s : State) : (seqLoad s).result = s.result := rfl
@[simp] theorem seqLoad_powerLost (s : State) : (seqLoad s).powerLost = s.powerLost := rfl
@[simp] theorem seqLoad_draws (s : State) : (seqLoad s).draws = s.draws := rfl
@[simp] theorem seqLoad_inputs (s : State) : (seqLoad s).inputs = s.inputs := rfl
@[simp] theorem seqLoad_rsp (s : State) : (seqLoad s).rsp = s.rsp := rfl

/-! ## seqDivide -/

@[simp] theorem seqDivide_wMax (s : State) : (seqDivide s).wMax = s.wMax := rfl
@[simp] theorem seqDivide_pending (s : State) : (seqDivide s).pending = s.pending := rfl
@[simp] theorem seqDivide_act (s : State) : (seqDivide s).act = s.act := rfl
@[simp] theorem seqDivide_table (s : State) : (seqDivide s).table = s.table := rfl
@[simp] theorem seqDivide_valid (s : State) : (seqDivide s).valid = s.valid := rfl
@[simp] theorem seqDivide_done (s : State) : (seqDivide s).done = s.done := rfl
@[simp] theorem seqDivide_err (s : State) : (seqDivide s).err = s.err := rfl
@[simp] theorem seqDivide_errCode (s : State) : (seqDivide s).errCode = s.errCode := rfl
@[simp] theorem seqDivide_phase (s : State) : (seqDivide s).phase = (if s.bitcnt + 1 = 8 then .store else .step) := rfl
@[simp] theorem seqDivide_idx (s : State) : (seqDivide s).idx = s.idx := rfl
@[simp] theorem seqDivide_bitcnt (s : State) : (seqDivide s).bitcnt = s.bitcnt + 1 := rfl
@[simp] theorem seqDivide_rem (s : State) : (seqDivide s).rem = divisionStep s.rem s.act.polynomial s.act.width.toNat := rfl
@[simp] theorem seqDivide_doneIe (s : State) : (seqDivide s).doneIe = s.doneIe := rfl
@[simp] theorem seqDivide_errIe (s : State) : (seqDivide s).errIe = s.errIe := rfl
@[simp] theorem seqDivide_acc (s : State) : (seqDivide s).acc = s.acc := rfl
@[simp] theorem seqDivide_result (s : State) : (seqDivide s).result = s.result := rfl
@[simp] theorem seqDivide_powerLost (s : State) : (seqDivide s).powerLost = s.powerLost := rfl
@[simp] theorem seqDivide_draws (s : State) : (seqDivide s).draws = s.draws := rfl
@[simp] theorem seqDivide_inputs (s : State) : (seqDivide s).inputs = s.inputs := rfl
@[simp] theorem seqDivide_rsp (s : State) : (seqDivide s).rsp = s.rsp := rfl

/-! ## enterReset -/

@[simp] theorem enterReset_wMax (req : Option Access) (s : State) : (enterReset req s).wMax = s.wMax := rfl
@[simp] theorem enterReset_pending (req : Option Access) (s : State) : (enterReset req s).pending = CrcConfig.reset := rfl
@[simp] theorem enterReset_act (req : Option Access) (s : State) : (enterReset req s).act = CrcConfig.actReset s.wMax := rfl
@[simp] theorem enterReset_table (req : Option Access) (s : State) : (enterReset req s).table = [] := rfl
@[simp] theorem enterReset_valid (req : Option Access) (s : State) : (enterReset req s).valid = false := rfl
@[simp] theorem enterReset_done (req : Option Access) (s : State) : (enterReset req s).done = false := rfl
@[simp] theorem enterReset_err (req : Option Access) (s : State) : (enterReset req s).err = false := rfl
@[simp] theorem enterReset_errCode (req : Option Access) (s : State) : (enterReset req s).errCode = 0 := rfl
@[simp] theorem enterReset_phase (req : Option Access) (s : State) : (enterReset req s).phase = .idle := rfl
@[simp] theorem enterReset_idx (req : Option Access) (s : State) : (enterReset req s).idx = 0 := rfl
@[simp] theorem enterReset_bitcnt (req : Option Access) (s : State) : (enterReset req s).bitcnt = 0 := rfl
@[simp] theorem enterReset_rem (req : Option Access) (s : State) : (enterReset req s).rem = 0 := rfl
@[simp] theorem enterReset_doneIe (req : Option Access) (s : State) : (enterReset req s).doneIe = false := rfl
@[simp] theorem enterReset_errIe (req : Option Access) (s : State) : (enterReset req s).errIe = false := rfl
@[simp] theorem enterReset_acc (req : Option Access) (s : State) : (enterReset req s).acc = 0 := rfl
@[simp] theorem enterReset_result (req : Option Access) (s : State) : (enterReset req s).result = 0 := rfl
@[simp] theorem enterReset_powerLost (req : Option Access) (s : State) : (enterReset req s).powerLost = false := rfl
@[simp] theorem enterReset_draws (req : Option Access) (s : State) : (enterReset req s).draws = s.draws + 1 := rfl
@[simp] theorem enterReset_inputs (req : Option Access) (s : State) : (enterReset req s).inputs = s.inputs := rfl
@[simp] theorem enterReset_rsp (req : Option Access) (s : State) : (enterReset req s).rsp = req.map fun _ => Response.refused := rfl

/-! ## losePower: what is left of the state -/

@[simp] theorem losePower_wMax (req : Option Access) (s : State) : (losePower req s).wMax = s.wMax := rfl
@[simp] theorem losePower_powerLost (req : Option Access) (s : State) : (losePower req s).powerLost = true := rfl
@[simp] theorem losePower_inputs (req : Option Access) (s : State) : (losePower req s).inputs = s.inputs := rfl
@[simp] theorem losePower_table (req : Option Access) (s : State) : (losePower req s).table = [] := rfl
@[simp] theorem losePower_draws (req : Option Access) (s : State) : (losePower req s).draws = s.draws + 1 := rfl

/-! ## writeRegister: what no register write touches -/

@[simp] theorem writeRegister_wMax (r : Reg) (v : Word) (s : State) : (writeRegister r v s).wMax = s.wMax := by
  cases r <;> rfl
@[simp] theorem writeRegister_act (r : Reg) (v : Word) (s : State) : (writeRegister r v s).act = s.act := by
  cases r <;> rfl
@[simp] theorem writeRegister_table (r : Reg) (v : Word) (s : State) : (writeRegister r v s).table = s.table := by
  cases r <;> rfl
@[simp] theorem writeRegister_valid (r : Reg) (v : Word) (s : State) : (writeRegister r v s).valid = s.valid := by
  cases r <;> rfl
@[simp] theorem writeRegister_done (r : Reg) (v : Word) (s : State) : (writeRegister r v s).done = s.done := by
  cases r <;> rfl
@[simp] theorem writeRegister_err (r : Reg) (v : Word) (s : State) : (writeRegister r v s).err = s.err := by
  cases r <;> rfl
@[simp] theorem writeRegister_errCode (r : Reg) (v : Word) (s : State) : (writeRegister r v s).errCode = s.errCode := by
  cases r <;> rfl
@[simp] theorem writeRegister_phase (r : Reg) (v : Word) (s : State) : (writeRegister r v s).phase = s.phase := by
  cases r <;> rfl
@[simp] theorem writeRegister_idx (r : Reg) (v : Word) (s : State) : (writeRegister r v s).idx = s.idx := by
  cases r <;> rfl
@[simp] theorem writeRegister_bitcnt (r : Reg) (v : Word) (s : State) : (writeRegister r v s).bitcnt = s.bitcnt := by
  cases r <;> rfl
@[simp] theorem writeRegister_rem (r : Reg) (v : Word) (s : State) : (writeRegister r v s).rem = s.rem := by
  cases r <;> rfl
@[simp] theorem writeRegister_acc (r : Reg) (v : Word) (s : State) : (writeRegister r v s).acc = s.acc := by
  cases r <;> rfl
@[simp] theorem writeRegister_result (r : Reg) (v : Word) (s : State) : (writeRegister r v s).result = s.result := by
  cases r <;> rfl
@[simp] theorem writeRegister_powerLost (r : Reg) (v : Word) (s : State) : (writeRegister r v s).powerLost = s.powerLost := by
  cases r <;> rfl
@[simp] theorem writeRegister_draws (r : Reg) (v : Word) (s : State) : (writeRegister r v s).draws = s.draws := by
  cases r <;> rfl
@[simp] theorem writeRegister_inputs (r : Reg) (v : Word) (s : State) : (writeRegister r v s).inputs = s.inputs := by
  cases r <;> rfl
@[simp] theorem writeRegister_rsp (r : Reg) (v : Word) (s : State) : (writeRegister r v s).rsp = s.rsp := by
  cases r <;> rfl

/-! ## seqStore and sequencerStep: what no sequencer step touches -/

@[simp] theorem seqStore_wMax (s : State) : (seqStore s).wMax = s.wMax := by
  unfold seqStore; split <;> rfl
@[simp] theorem seqStore_pending (s : State) : (seqStore s).pending = s.pending := by
  unfold seqStore; split <;> rfl
@[simp] theorem seqStore_act (s : State) : (seqStore s).act = s.act := by
  unfold seqStore; split <;> rfl
@[simp] theorem seqStore_err (s : State) : (seqStore s).err = s.err := by
  unfold seqStore; split <;> rfl
@[simp] theorem seqStore_errCode (s : State) : (seqStore s).errCode = s.errCode := by
  unfold seqStore; split <;> rfl
@[simp] theorem seqStore_doneIe (s : State) : (seqStore s).doneIe = s.doneIe := by
  unfold seqStore; split <;> rfl
@[simp] theorem seqStore_errIe (s : State) : (seqStore s).errIe = s.errIe := by
  unfold seqStore; split <;> rfl
@[simp] theorem seqStore_acc (s : State) : (seqStore s).acc = s.acc := by
  unfold seqStore; split <;> rfl
@[simp] theorem seqStore_result (s : State) : (seqStore s).result = s.result := by
  unfold seqStore; split <;> rfl
@[simp] theorem seqStore_powerLost (s : State) : (seqStore s).powerLost = s.powerLost := by
  unfold seqStore; split <;> rfl
@[simp] theorem seqStore_draws (s : State) : (seqStore s).draws = s.draws := by
  unfold seqStore; split <;> rfl
@[simp] theorem seqStore_inputs (s : State) : (seqStore s).inputs = s.inputs := by
  unfold seqStore; split <;> rfl
@[simp] theorem seqStore_rsp (s : State) : (seqStore s).rsp = s.rsp := by
  unfold seqStore; split <;> rfl
@[simp] theorem seqStore_bitcnt (s : State) : (seqStore s).bitcnt = s.bitcnt := by
  unfold seqStore; split <;> rfl
@[simp] theorem seqStore_rem (s : State) : (seqStore s).rem = s.rem := by
  unfold seqStore; split <;> rfl
@[simp] theorem seqStore_table (s : State) : (seqStore s).table =
    tableInsert s.table s.idx.toNat (reflectWord s.act.reflectOutput s.act.width.toNat s.rem) := by
  unfold seqStore; split <;> rfl
@[simp] theorem sequencerStep_wMax (s : State) : (sequencerStep s).wMax = s.wMax := by
  unfold sequencerStep; split <;> simp
@[simp] theorem sequencerStep_pending (s : State) : (sequencerStep s).pending = s.pending := by
  unfold sequencerStep; split <;> simp
@[simp] theorem sequencerStep_act (s : State) : (sequencerStep s).act = s.act := by
  unfold sequencerStep; split <;> simp
@[simp] theorem sequencerStep_err (s : State) : (sequencerStep s).err = s.err := by
  unfold sequencerStep; split <;> simp
@[simp] theorem sequencerStep_errCode (s : State) : (sequencerStep s).errCode = s.errCode := by
  unfold sequencerStep; split <;> simp
@[simp] theorem sequencerStep_doneIe (s : State) : (sequencerStep s).doneIe = s.doneIe := by
  unfold sequencerStep; split <;> simp
@[simp] theorem sequencerStep_errIe (s : State) : (sequencerStep s).errIe = s.errIe := by
  unfold sequencerStep; split <;> simp
@[simp] theorem sequencerStep_acc (s : State) : (sequencerStep s).acc = s.acc := by
  unfold sequencerStep; split <;> simp
@[simp] theorem sequencerStep_result (s : State) : (sequencerStep s).result = s.result := by
  unfold sequencerStep; split <;> simp
@[simp] theorem sequencerStep_powerLost (s : State) : (sequencerStep s).powerLost = s.powerLost := by
  unfold sequencerStep; split <;> simp
@[simp] theorem sequencerStep_draws (s : State) : (sequencerStep s).draws = s.draws := by
  unfold sequencerStep; split <;> simp
@[simp] theorem sequencerStep_inputs (s : State) : (sequencerStep s).inputs = s.inputs := by
  unfold sequencerStep; split <;> simp
@[simp] theorem sequencerStep_rsp (s : State) : (sequencerStep s).rsp = s.rsp := by
  unfold sequencerStep; split <;> simp

/-! ## The outcome helper -/

@[simp] theorem onNext_next (s : State) (f : State → State) : onNext (.next s) f = .next (f s) := rfl

end Sys2Proof.Machine
end

