-- ==== Sys2Proof/Laws/Table.lean ====
section
/-! SUPPORT. TABLE as a list of cells: what a find after an insert gives, that the canonical form is kept by every operation
that writes TABLE, and what a read of the state after a write gives (R37). -/

namespace Sys2Proof.Machine

theorem tableFind_tableInsert (t : Table) (i j : Nat) (v : Word) :
    tableFind (tableInsert t i v) j = if j = i then some v else tableFind t j := by
  induction t with
  | nil =>
    by_cases h : j = i
    · simp [tableInsert, tableFind, h]
    · simp [tableInsert, tableFind, h, Ne.symm h]
  | cons c rest ih =>
    obtain ⟨k, w⟩ := c
    unfold tableInsert
    split
    · by_cases h : j = i
      · simp [tableFind, h]
      · simp [tableFind, h, Ne.symm h]
    · split
      · subst k
        by_cases h : j = i
        · simp [tableFind, h]
        · simp [tableFind, h, Ne.symm h]
      · rename_i hlt hne
        by_cases hk : k = j
        · subst hk
          simp [tableFind, Ne.symm hne]
        · simp [tableFind, hk, ih]

theorem mem_tableInsert {t : Table} {i : Nat} {v : Word} {c : Nat × Word} (h : c ∈ tableInsert t i v) :
    c = (i, v) ∨ c ∈ t := by
  induction t with
  | nil => simpa [tableInsert] using h
  | cons d rest ih =>
    obtain ⟨k, w⟩ := d
    unfold tableInsert at h
    split at h
    · simpa using h
    · split at h
      · rcases List.mem_cons.1 h with h | h
        · exact .inl h
        · exact .inr (List.mem_cons_of_mem _ h)
      · rcases List.mem_cons.1 h with h | h
        · exact .inr (h ▸ List.mem_cons_self)
        · exact (ih h).imp_right (List.mem_cons_of_mem _)

/-- The canonical form of TABLE is kept by a write of an entry 0..255. -/
theorem tableInsert_wf {t : Table} {i : Nat} (v : Word) (hi : i < 256) (h : Table.wf t) :
    Table.wf (tableInsert t i v) := by
  refine ⟨?_, fun c hc => ?_⟩
  · obtain ⟨hp, -⟩ := h
    induction t with
    | nil => simp [tableInsert]
    | cons d rest ih =>
      obtain ⟨k, w⟩ := d
      obtain ⟨hk, hrest⟩ := List.pairwise_cons.1 hp
      unfold tableInsert
      split
      · rename_i hlt
        refine List.pairwise_cons.2 ⟨fun c hc => ?_, hp⟩
        rcases List.mem_cons.1 hc with rfl | hc
        · exact hlt
        · exact lt_trans hlt (hk c hc)
      · split
        · subst i
          exact List.pairwise_cons.2 ⟨hk, hrest⟩
        · refine List.pairwise_cons.2 ⟨fun c hc => ?_, ih hrest⟩
          rcases mem_tableInsert hc with rfl | hc
          · simp only
            omega
          · exact hk c hc
  · rcases mem_tableInsert hc with rfl | hc
    · exact hi
    · exact h.2 c hc

theorem forgetTable_wf (s : State) : Table.wf (forgetTable s).table := ⟨List.Pairwise.nil, fun _ hc => nomatch hc⟩

theorem State.tableWrite_wf {s : State} (i : Byte) (v : Word) (h : Table.wf s.table) :
    Table.wf (s.tableWrite i v).table :=
  tableInsert_wf v i.isLt h

theorem sequencerStep_table_wf {s : State} (h : Table.wf s.table) : Table.wf (sequencerStep s).table := by
  unfold sequencerStep
  split
  · exact h
  · exact h
  · exact h
  · rw [seqStore_table]
    exact tableInsert_wf _ s.idx.isLt h

theorem reset_table_wf (m : WMax) : Table.wf (State.resetWith m).table :=
  ⟨List.Pairwise.nil, fun _ hc => nomatch hc⟩

/-- Writing one entry changes that entry and no other. -/
theorem tableRead_tableWrite (s : State) (i d : Byte) (v : Word) :
    (s.tableWrite i v).tableRead d = if d = i then v else s.tableRead d := by
  unfold State.tableRead State.tableUnlisted
  simp only [State.tableWrite_table, State.tableWrite_wMax, State.tableWrite_draws, tableFind_tableInsert,
    BitVec.toNat_inj]
  split <;> simp

/-- A read of TABLE depends on the cells, on W_MAX and on the number of the draw alone. -/
theorem tableRead_congr {s t : State} (ht : t.table = s.table) (hm : t.wMax = s.wMax) (hd : t.draws = s.draws) (d : Byte) :
    t.tableRead d = s.tableRead d := by
  simp [State.tableRead, State.tableUnlisted, ht, hm, hd]

/-- `tableRead_congr` for the updates that leave TABLE alone, one lemma each. -/
@[simp] theorem raiseError_tableRead (c : ErrCode) (s : State) (d : Byte) : (raiseError c s).tableRead d = s.tableRead d :=
  tableRead_congr rfl rfl rfl d
@[simp] theorem acknowledge_tableRead (s : State) (d : Byte) : (acknowledge s).tableRead d = s.tableRead d :=
  tableRead_congr rfl rfl rfl d
@[simp] theorem respond_tableRead (r : Response) (s : State) (d : Byte) : (respond r s).tableRead d = s.tableRead d :=
  tableRead_congr rfl rfl rfl d
@[simp] theorem silent_tableRead (s : State) (d : Byte) : (silent s).tableRead d = s.tableRead d :=
  tableRead_congr rfl rfl rfl d
@[simp] theorem takeEvent_tableRead (s : State) (d : Byte) : (takeEvent s).tableRead d = s.tableRead d :=
  tableRead_congr rfl rfl rfl d
@[simp] theorem presentFirst_tableRead (e : HostEvent) (s : State) (d : Byte) :
    (presentFirst e s).tableRead d = s.tableRead d :=
  tableRead_congr rfl rfl rfl d
@[simp] theorem acceptGenerate_tableRead (s : State) (d : Byte) : (acceptGenerate s).tableRead d = s.tableRead d :=
  tableRead_congr rfl rfl rfl d
@[simp] theorem writeRegister_tableRead (r : Reg) (v : Word) (s : State) (d : Byte) :
    (writeRegister r v s).tableRead d = s.tableRead d :=
  tableRead_congr (by simp) (by simp) (by simp) d

/-- What a sequencer step does to TABLE: STORE writes entry IDX, the other phases write nothing. -/
theorem sequencerStep_tableRead (s : State) (d : Byte) :
    (sequencerStep s).tableRead d =
      if s.phase = .store ∧ d = s.idx then reflectWord s.act.reflectOutput s.act.width.toNat s.rem
      else s.tableRead d := by
  cases hp : s.phase
  case store =>
    have h := tableRead_tableWrite s s.idx d (reflectWord s.act.reflectOutput s.act.width.toNat s.rem)
    rw [show (sequencerStep s).tableRead d =
        (s.tableWrite s.idx (reflectWord s.act.reflectOutput s.act.width.toNat s.rem)).tableRead d from
      tableRead_congr (by simp [sequencerStep, hp]) (by simp) (by simp) d, h]
    simp
  all_goals
    rw [tableRead_congr (s := s) (by simp [sequencerStep, hp]) (by simp) (by simp) d]
    simp

end Sys2Proof.Machine
end

