-- ==== Sys2Proof/Laws/Commands.lean ====
section
/-! SUPPORT. What each meaning can answer, said once: provers cite these instead of unfolding a meaning. -/

namespace Sys2Proof.Machine

@[simp] theorem busy_eq_false (s : State) : s.busy = false ↔ s.phase = .idle := by simp [State.busy]

@[simp] theorem busy_eq_true (s : State) : s.busy = true ↔ s.phase ≠ .idle := by simp [State.busy]

/-- A configuration that no check refuses is a valid one (R142). -/
theorem valid_of_checkConfig {m : WMax} {C : CrcConfig} (h : checkConfig m C = none) : C.Valid m := by
  unfold checkConfig at h
  simp only at h
  split_ifs at h with h1 h2 h3 h4
  rw [not_or, not_or] at h1
  exact ⟨⟨by omega, by omega, by omega⟩, by omega, by omega, by omega⟩

/-- The code of a configuration error is one of 1 to 4 (R240). -/
theorem code_of_checkConfig {m : WMax} {C : CrcConfig} {e : ErrCode} (h : checkConfig m C = some e) :
    1 ≤ e.code.toNat ∧ e.code.toNat ≤ 4 := by
  unfold checkConfig at h
  simp only at h
  split_ifs at h <;> cases h <;> decide

/-- Why a message command is refused (R180). -/
theorem messageRefusal_cases (s : State) :
    (s.phase ≠ .idle ∧ messageRefusal s = some .busy) ∨ (s.phase = .idle ∧ s.valid = false ∧ messageRefusal s = some .notReady) ∨
      (s.phase = .idle ∧ s.valid = true ∧ messageRefusal s = none) := by
  unfold messageRefusal
  cases hp : decide (s.phase = .idle) <;> cases hv : s.valid <;> simp_all [State.busy]

/-- An error as it is raised: never NONE. -/
abbrev Raises (s t : State) : Prop := ∃ c : ErrCode, 1 ≤ c.code.toNat ∧ c.code.toNat ≤ 7 ∧ t = raiseError c s

theorem execNop_cases {s t : State} (h : execNop s = .next t) : t = s := by cases h; rfl

theorem execAck_cases {s t : State} (h : execAck s = .next t) : t = acknowledge s := by cases h; rfl

theorem execAbort_cases {s t : State} (h : execAbort s = .next t) :
    (s.phase = .idle ∧ t = s) ∨ (s.phase ≠ .idle ∧ t = abortGeneration s) := by
  cases h
  cases hp : s.busy
  · exact .inl ⟨(busy_eq_false s).1 hp, rfl⟩
  · exact .inr ⟨(busy_eq_true s).1 hp, rfl⟩

theorem execGenerate_cases {s t : State} (h : execGenerate s = .next t) :
    ((s.phase ≠ .idle ∨ checkConfig s.wMax s.pending ≠ none) ∧ Raises s t) ∨
      (s.phase = .idle ∧ checkConfig s.wMax s.pending = none ∧ t = acceptGenerate s) := by
  unfold execGenerate at h
  split at h
  · rename_i hb
    cases h
    exact .inl ⟨.inl ((busy_eq_true s).1 hb), .busy, by decide, by decide, rfl⟩
  · rename_i hb
    have hp : s.phase = .idle := by simpa using hb
    split at h
    · rename_i e he
      cases h
      have hc := code_of_checkConfig he
      exact .inl ⟨.inr (by simp [he]), e, hc.1, by omega, rfl⟩
    · rename_i hn
      cases h
      exact .inr ⟨hp, hn, rfl⟩

/-- The two shapes of an answer of a message command (R180 to R183). -/
theorem message_cases {s t u : State}
    (h : (match messageRefusal s with | some e => Host.Outcome.next (raiseError e s) | none => .next u) =
      (.next t : Result State)) :
    ((s.phase ≠ .idle ∨ s.valid = false) ∧ Raises s t) ∨ (s.phase = .idle ∧ s.valid = true ∧ t = u) := by
  rcases messageRefusal_cases s with ⟨hp, hr⟩ | ⟨hp, hv, hr⟩ | ⟨hp, hv, hr⟩ <;> rw [hr] at h <;> cases h
  · exact .inl ⟨.inl hp, .busy, by decide, by decide, rfl⟩
  · exact .inl ⟨.inr hv, .notReady, by decide, by decide, rfl⟩
  · exact .inr ⟨hp, hv, rfl⟩

theorem execCrcInit_cases {s t : State} (h : execCrcInit s = .next t) :
    ((s.phase ≠ .idle ∨ s.valid = false) ∧ Raises s t) ∨
      (s.phase = .idle ∧ s.valid = true ∧ t = { s with acc := s.act.initialRemainder }) :=
  message_cases h

theorem execCrcUpdate_cases {b : Byte} {s t : State} (h : execCrcUpdate b s = .next t) :
    ((s.phase ≠ .idle ∨ s.valid = false) ∧ Raises s t) ∨
      (s.phase = .idle ∧ s.valid = true ∧ t = { s with acc := updatedAcc s b }) :=
  message_cases h

theorem execCrcFinal_cases {s t : State} (h : execCrcFinal s = .next t) :
    ((s.phase ≠ .idle ∨ s.valid = false) ∧ Raises s t) ∨
      (s.phase = .idle ∧ s.valid = true ∧ t = { s with result := finishedCrc s }) :=
  message_cases h

end Sys2Proof.Machine
end

