-- ==== Sys2Proof/Laws/Divider.lean ====
section
/-! SUPPORT. The functions of the divider bit by bit (R120 to R124), and the bounds of their results. -/

namespace Sys2Proof.Machine

theorem topBitMask_getLsbD {W : Nat} (hW : 1 ≤ W) (hW' : W ≤ 64) (j : Nat) :
    (topBitMask W).getLsbD j = decide (j = W - 1) := by
  rw [topBitMask, BitVec.getLsbD_shiftLeft, BitVec.getLsbD_one]
  by_cases h : j = W - 1
  · subst h
    simp
    omega
  · simp only [h, decide_false, Bool.and_eq_false_imp]
    intro h1
    simp at h1 ⊢
    omega

theorem widthMask_getLsbD {W : Nat} (hW : W ≤ 64) (j : Nat) : (widthMask W).getLsbD j = decide (j < W) := by
  rw [widthMask, BitVec.getLsbD_ofNat, Nat.testBit_two_pow_sub_one]
  by_cases h : j < W
  · simp [h]
    omega
  · simp [h]

/-- A word is below 2^n exactly when its bits at n and above are 0. -/
theorem toNat_lt_iff_getLsbD (n : Nat) (v : Word) : v.toNat < 2 ^ n ↔ ∀ j, n ≤ j → v.getLsbD j = false := by
  constructor
  · intro h j hj
    exact Nat.testBit_lt_two_pow (lt_of_lt_of_le h (Nat.pow_le_pow_right (by decide) hj))
  · intro h
    exact Nat.lt_pow_two_of_testBit _ fun i hi => h i hi

theorem toNat_xor_lt {n : Nat} {a b : Word} (ha : a.toNat < 2 ^ n) (hb : b.toNat < 2 ^ n) :
    (a ^^^ b).toNat < 2 ^ n := by
  rw [BitVec.toNat_xor]
  exact Nat.xor_lt_two_pow ha hb

theorem and_widthMask_getLsbD {W : Nat} (hW : W ≤ 64) (v : Word) (j : Nat) :
    (v &&& widthMask W).getLsbD j = (decide (j < W) && v.getLsbD j) := by
  rw [BitVec.getLsbD_and, widthMask_getLsbD hW, Bool.and_comm]

theorem and_widthMask_lt {W : Nat} (hW : W ≤ 64) (v : Word) : (v &&& widthMask W).toNat < 2 ^ W := by
  rw [toNat_lt_iff_getLsbD]
  intro j hj
  simp [and_widthMask_getLsbD hW, hj]

/-- Masking to W bits is the remainder modulo 2^W. -/
theorem toNat_and_widthMask {W : Nat} (hW : W ≤ 64) (v : Word) : (v &&& widthMask W).toNat = v.toNat % 2 ^ W := by
  apply Nat.eq_of_testBit_eq
  intro j
  have h := and_widthMask_getLsbD hW v j
  simpa [BitVec.getLsbD, Nat.testBit_mod_two_pow] using h

/-- The top-bit test of R122 reads bit W-1 and no other. -/
theorem and_topBitMask_ne_zero {W : Nat} (hW : 1 ≤ W) (hW' : W ≤ 64) (r : Word) :
    (r &&& topBitMask W ≠ 0) ↔ r.getLsbD (W - 1) = true := by
  constructor
  · intro h
    by_contra hc
    apply h
    apply BitVec.eq_of_getLsbD_eq
    intro j hj
    rw [BitVec.getLsbD_and, topBitMask_getLsbD hW hW']
    by_cases hjw : j = W - 1
    · simpa [hjw] using hc
    · simp [hjw]
  · intro h hc
    have h2 := congrArg (fun v : Word => v.getLsbD (W - 1)) hc
    simp [topBitMask_getLsbD hW hW', h] at h2

/-- divisionStep bit by bit: bit j comes from bit j-1, bit W-1 decides whether P is added (R122). -/
theorem divisionStep_getLsbD {W : Nat} (hW : 1 ≤ W) (hW' : W ≤ 64) (r P : Word) (j : Nat) :
    (divisionStep r P W).getLsbD j =
      ((decide (j < W) && (decide (0 < j) && r.getLsbD (j - 1))) ^^ (r.getLsbD (W - 1) && P.getLsbD j)) := by
  have hs : ((r <<< 1) &&& widthMask W).getLsbD j = (decide (j < W) && (decide (0 < j) && r.getLsbD (j - 1))) := by
    rw [and_widthMask_getLsbD hW', BitVec.getLsbD_shiftLeft]
    by_cases hj : j < W
    · have h64 : j < 64 := by omega
      cases j <;> simp_all
    · simp [hj]
  unfold divisionStep
  by_cases h : r.getLsbD (W - 1) = true
  · have h1 := (and_topBitMask_ne_zero hW hW' r).2 h
    simp only [h1, ne_eq, not_false_eq_true, if_true, BitVec.getLsbD_xor, hs, h, Bool.true_and]
  · have h1 : r &&& topBitMask W = 0 := by
      by_contra hc
      exact h ((and_topBitMask_ne_zero hW hW' r).1 hc)
    simp only [h1, ne_eq, not_true_eq_false, if_false, hs]
    simp [h]

theorem divisionStep_lt {W : Nat} (hW : W ≤ 64) {r P : Word} (hP : P.toNat < 2 ^ W) :
    (divisionStep r P W).toNat < 2 ^ W := by
  have h := and_widthMask_lt hW (r <<< 1)
  unfold divisionStep
  simp only
  split
  · exact toNat_xor_lt h hP
  · exact h

theorem divisionSteps_lt {W : Nat} (hW : W ≤ 64) {r P : Word} (hr : r.toNat < 2 ^ W) (hP : P.toNat < 2 ^ W) (n : Nat) :
    (divisionSteps n r P W).toNat < 2 ^ W := by
  cases n with
  | zero => exact hr
  | succ n => exact divisionStep_lt hW hP

/-- rev bit by bit: bit j of the result is bit n-1-j of the value (R124). -/
theorem rev_getLsbD {n : Nat} (hn : n ≤ 64) (v : Word) (j : Nat) :
    (rev n v).getLsbD j = (decide (j < n) && v.getLsbD (n - 1 - j)) := by
  induction n generalizing v with
  | zero => simp [rev]
  | succ n ih =>
    rw [rev, BitVec.getLsbD_or, BitVec.getLsbD_shiftLeft, ih (by omega), BitVec.getLsbD_and, BitVec.getLsbD_one,
      BitVec.getLsbD_ushiftRight]
    rcases Nat.lt_trichotomy j n with h | h | h
    · have h1 : j < n + 1 := by omega
      have h2 : 1 + (n - 1 - j) = n + 1 - 1 - j := by omega
      simp [h, h1, h2]
    · subst h
      have h64 : j < 64 := by omega
      simp [h64]
    · have h1 : ¬ j < n := by omega
      have h2 : ¬ j < n + 1 := by omega
      have h3 : ¬ j - n = 0 := by omega
      simp [h1, h2, h3]

theorem rev_lt {n : Nat} (hn : n ≤ 64) (v : Word) : (rev n v).toNat < 2 ^ n := by
  rw [toNat_lt_iff_getLsbD]
  intro j hj
  simp [rev_getLsbD hn, hj]

theorem reflectWord_lt {W : Nat} (hW : W ≤ 64) (flag : Bool) {v : Word} (hv : v.toNat < 2 ^ W) :
    (reflectWord flag W v).toNat < 2 ^ W := by
  cases flag
  · exact hv
  · exact rev_lt hW v

theorem revByte_getLsbD (b : Byte) (j : Nat) : (revByte b).getLsbD j = (decide (j < 8) && b.getLsbD (7 - j)) := by
  rw [revByte, BitVec.getLsbD_setWidth, rev_getLsbD (by decide), BitVec.getLsbD_setWidth]
  by_cases h : j < 8
  · have h1 : 7 - j < 64 := by omega
    simp [h, h1]
  · simp [h]

/-- placeByte bit by bit: bit k of the byte sits at bit W-8+k (R146 step 2). -/
theorem placeByte_getLsbD {W : Nat} (hW : 8 ≤ W) (hW' : W ≤ 64) (b : Byte) (j : Nat) :
    (placeByte b W).getLsbD j = (decide (W - 8 ≤ j) && b.getLsbD (j - (W - 8))) := by
  rw [placeByte, and_widthMask_getLsbD hW', BitVec.getLsbD_shiftLeft, BitVec.getLsbD_setWidth]
  by_cases h : j < W
  · have h64 : j < 64 := by omega
    have h2 : j - (W - 8) < 64 := by omega
    by_cases h3 : j < W - 8
    · have h4 : ¬ W - 8 ≤ j := by omega
      simp [h3, h4]
    · have h4 : W - 8 ≤ j := by omega
      simp [h, h64, h2, h3, h4]
  · have h2 : 8 ≤ j - (W - 8) := by omega
    simp [h, BitVec.getLsbD_of_ge _ _ h2]

theorem placeByte_lt {W : Nat} (hW : W ≤ 64) (b : Byte) : (placeByte b W).toNat < 2 ^ W := and_widthMask_lt hW _

end Sys2Proof.Machine
end

