-- ==== Sys2Proof/Laws/PerInstr.lean ====
section
/-! SUPPORT. Statements made of every command, with one lemma per constructor. RoundTrip: a well-formed command is
decoded back from its word, and through the bytes of the word (R94, R67). -/

namespace Sys2Proof.Laws

/-- Decoding the word of a well-formed command gives the command back. -/
def RoundTrip.Statement (i : Instr) : Prop := i.wellFormed = true → decode (encode i) = .command i

theorem RoundTrip.nop : RoundTrip.Statement .nop := fun _ => by decide

theorem RoundTrip.generate : RoundTrip.Statement .generate := fun _ => by decide

theorem RoundTrip.abort : RoundTrip.Statement .abort := fun _ => by decide

theorem RoundTrip.ack : RoundTrip.Statement .ack := fun _ => by decide

theorem RoundTrip.crcInit : RoundTrip.Statement .crcInit := fun _ => by decide

/-- The fields of CRC_UPDATE's word. -/
theorem encode_crcUpdate_fields (b : Byte) :
    rsvField (encode (.crcUpdate b)) = 0 ∧ opcField (encode (.crcUpdate b)) = 0x05 ∧
      byteField (encode (.crcUpdate b)) = b := by
  refine ⟨?_, ?_, ?_⟩
  all_goals
    apply BitVec.eq_of_getLsbD_eq
    intro j hj
    simp only [rsvField, opcField, byteField, encode, operandOf, opcodeOf, BitVec.getLsbD_extractLsb',
      BitVec.getLsbD_append]
  · have h1 : ¬ 16 + j < 8 := by omega
    have h2 : ¬ 16 + j - 8 < 8 := by omega
    simp [h1, h2]
  · have h1 : 0 + j < 8 := by omega
    simp [hj]
  · have h1 : ¬ 8 + j < 8 := by omega
    have h2 : 8 + j - 8 = j := by omega
    simp [hj]

theorem RoundTrip.crcUpdate (b : Byte) : RoundTrip.Statement (.crcUpdate b) := fun _ => by
  obtain ⟨hr, ho, hb⟩ := encode_crcUpdate_fields b
  simp [decode, hr, ho, hb]

theorem RoundTrip.crcFinal : RoundTrip.Statement .crcFinal := fun _ => by decide

end Sys2Proof.Laws
end

