-- ==== Sys2Proof/Laws/Step.lean ====
section
/-! SUPPORT. What one step can do, said once: the inversion of `step` by its event, of a cycle by its access, and the routes
of a host write. -/

namespace Sys2Proof.Machine

/-- An offset leads to a register exactly where it is that register's offset (10_state.md section 2). -/
theorem regAt_eq_some {a : BitVec 12} {r : Reg} (h : regAt a = some r) : a = regOffset r := by
  unfold regAt at h
  split_ifs at h <;> cases h <;> assumption

@[simp] theorem regAt_regOffset (r : Reg) : regAt (regOffset r) = some r := by cases r <;> decide

/-- The route of a write that reaches a register: 8 bytes wide, at that register's offset, and the register takes
writes. -/
theorem writeRoute_register {a : BitVec 12} {n : BitVec 4} {r : Reg} (h : writeRoute a n = .register r) :
    n = 8 ∧ a = regOffset r ∧ registerWritable r = true := by
  unfold writeRoute at h
  split at h
  · cases h
  · rename_i hadm
    split at h
    · cases h
    · split at h
      · rename_i q hq
        split at h
        · rename_i hw
          cases h
          refine ⟨?_, regAt_eq_some hq, hw⟩
          simp [admitted] at hadm
          exact hadm.1
        · cases h
      · cases h

@[simp] theorem writeRoute_cmd : writeRoute (regOffset .cmd) 8#4 = .register .cmd := by decide

@[simp] theorem writtenCommand_cmdWrite (w : Word) : writtenCommand (.cycle (some (cmdWrite w))) = some w := by
  simp [writtenCommand, cmdWrite]

/-- What an access can do to the state it is processed against. -/
theorem access_cases {a : Access} {s t : State} (h : accessWith exec a s = .next t) :
    (∃ r, t = respond r s ∧ writtenCommand (.cycle (some a)) = none) ∨
    (∃ r, registerWritable r = true ∧ r ≠ .cmd ∧ a.write = true ∧ a.addr = regOffset r ∧ a.size = 8 ∧
      t = respond .okayWrite (writeRegister r a.wdata s) ∧ writtenCommand (.cycle (some a)) = none) ∨
    (∃ i u, writtenCommand (.cycle (some a)) = some a.wdata ∧ decode a.wdata = .command i ∧ exec i s = .next u ∧
      t = respond .okayWrite u) ∨
    (∃ why, writtenCommand (.cycle (some a)) = some a.wdata ∧ decode a.wdata = .illegal why ∧
      t = respond .okayWrite (raiseError .illegalCmd s)) := by
  unfold accessWith at h
  split at h
  · rename_i hw
    unfold memWriteWith at h
    split at h
    · rename_i r hr
      cases h
      exact .inl ⟨r, rfl, by simp [writtenCommand, hr]⟩
    · rename_i hr
      have hc : writtenCommand (.cycle (some a)) = some a.wdata := by simp [writtenCommand, hw, hr]
      unfold commandWith at h
      split at h
      · rename_i i hd
        cases hx : exec i s with
        | next u =>
          rw [hx] at h
          cases h
          exact .inr (.inr (.inl ⟨i, u, hc, hd, hx, rfl⟩))
        | fault e => cases e
        | refused e => rw [hx] at h; cases h
      · rename_i why hd
        cases h
        exact .inr (.inr (.inr ⟨why, hc, hd, rfl⟩))
    · rename_i r hr hne
      cases h
      have hroute := writeRoute_register hne
      refine .inr (.inl ⟨r, hroute.2.2, fun hrc => ?_, hw, hroute.2.1, hroute.1, rfl, ?_⟩)
      · exact hr hrc
      · simp only [writtenCommand, hne, WriteRoute.register.injEq]
        rw [if_neg]
        exact fun hh => hr hh.2
  · rename_i hw
    cases h
    exact .inl ⟨_, rfl, by simp [writtenCommand, hw]⟩

/-- What a cycle can do: the sequencer's step, then nothing but an answer, a register write, a command, or an illegal
word. -/
theorem cycle_cases {req : Option Access} {s t : State} (h : cycleWith exec req s = .next t) :
    (req = none ∧ t = silent (sequencerStep s)) ∨
    (∃ r, t = respond r (sequencerStep s) ∧ writtenCommand (.cycle req) = none) ∨
    (∃ r v, registerWritable r = true ∧ r ≠ .cmd ∧ t = respond .okayWrite (writeRegister r v (sequencerStep s)) ∧
      writtenCommand (.cycle req) = none) ∨
    (∃ w i u, writtenCommand (.cycle req) = some w ∧ decode w = .command i ∧ exec i (sequencerStep s) = .next u ∧
      t = respond .okayWrite u) ∨
    (∃ w why, writtenCommand (.cycle req) = some w ∧ decode w = .illegal why ∧
      t = respond .okayWrite (raiseError .illegalCmd (sequencerStep s))) := by
  cases req with
  | none =>
    cases h
    exact .inl ⟨rfl, rfl⟩
  | some a =>
    refine .inr ?_
    rcases access_cases h with ⟨r, ht, hc⟩ | ⟨r, hw, hne, -, -, -, ht, hc⟩ | ⟨i, u, hc, hd, hx, ht⟩ | ⟨why, hc, hd, ht⟩
    · exact .inl ⟨r, ht, hc⟩
    · exact .inr (.inl ⟨r, a.wdata, hw, hne, ht, hc⟩)
    · exact .inr (.inr (.inl ⟨a.wdata, i, u, hc, hd, hx, ht⟩))
    · exact .inr (.inr (.inr ⟨a.wdata, why, hc, hd, ht⟩))

/-- A step is its next event against the state from which that event is taken. -/
theorem step_eq (s : State) : step s = eventWith exec (nextEvent s) (takeEvent s) := rfl

/-- What a step can do, by its event (R255, R270, R275). -/
theorem step_cases {s t : State} (h : step s = .next t) :
    (∃ req, nextEvent s = .resetLow req ∧ t = enterReset req (takeEvent s)) ∨
    (∃ req, (nextEvent s = .powerRemoved ∨ s.powerLost = true) ∧ t = losePower req (takeEvent s)) ∨
    (s.powerLost = false ∧ nextEvent s = .clockStopped ∧ t = silent (takeEvent s)) ∨
    (∃ req, s.powerLost = false ∧ nextEvent s = .cycle req ∧
      cycleWith exec req (takeEvent s) = .next t) := by
  rw [step_eq] at h
  unfold eventWith at h
  split at h
  · rename_i req he
    cases h
    exact .inl ⟨req, he, rfl⟩
  · rename_i he
    cases h
    exact .inr (.inl ⟨none, .inl he, rfl⟩)
  · rename_i he
    cases h
    cases hp : s.powerLost with
    | true => exact .inr (.inl ⟨none, .inr rfl, by simp [hp]⟩)
    | false => exact .inr (.inr (.inl ⟨rfl, he, by simp [hp]⟩))
  · rename_i req he
    split at h
    · rename_i hp
      cases h
      exact .inr (.inl ⟨req, .inr hp, rfl⟩)
    · rename_i hp
      exact .inr (.inr (.inr ⟨req, by simpa using hp, he, h⟩))

/-- A powered cycle, as a step. -/
theorem step_cycle {s : State} {req : Option Access} (hp : s.powerLost = false) (he : nextEvent s = .cycle req) :
    step s = cycleWith exec req (takeEvent s) := by
  rw [step_eq, he]
  simp [eventWith, hp]

/-- The next event of a state in which one was placed first. -/
@[simp] theorem nextEvent_presentFirst (e : HostEvent) (s : State) : nextEvent (presentFirst e s) = e := rfl

end Sys2Proof.Machine
end

