-- ==== Sys2Proof/Tests/Slice0.lean ====
section
/-! SUPPORT. Tests of the model's own: expected values are transcribed from spec/95_test_vectors.md and spec/30_encoding.md;
one step each. Then the witnesses: for every statement with hypotheses, a concrete state and operands that meet them all. -/

namespace Sys2Proof.Tests

open Sys2Proof.Machine

/-! ## Helpers -/

/-- A configuration from its six numbers. -/
def config (w : BitVec 8) (p i x : Word) (ri ro : Bool) : CrcConfig :=
  { width := w, polynomial := p, initialRemainder := i, finalXor := x, reflectInput := ri, reflectOutput := ro }

/-- CRC-16/XMODEM, the reset configuration (95_test_vectors.md section 2.2). -/
def xmodem : CrcConfig := config 16 0x1021 0 0 false false

/-- CRC-32, both reflections on (95_test_vectors.md section 2.4). -/
def crc32 : CrcConfig := config 32 0x04C11DB7 0xFFFFFFFF 0xFFFFFFFF true true

/-- A configuration at the upper end of every range: 64 bits, all ones (95_test_vectors.md section 2.2). -/
def widest : CrcConfig := config 64 0xFFFFFFFFFFFFFFFF 0xFFFFFFFFFFFFFFFF 0xFFFFFFFFFFFFFFFF true false

/-- The whole table of a configuration, as cells. -/
def filled (C : CrcConfig) : Table := (List.range' 0 256).map fun k => (k, entry (BitVec.ofNat 8 k) C)

/-- The block after a completed generation. -/
def ready (C : CrcConfig) : State :=
  { State.reset with
    pending := C, act := C, table := filled C, valid := true, done := true, idx := 255, bitcnt := 8 }

/-- The block in a phase of a generation of `C`, at an entry. -/
def during (C : CrcConfig) (p : Phase) (idx : BitVec 8) (bitcnt : BitVec 4) (rem : Word) : State :=
  { State.reset with pending := C, act := C, phase := p, idx := idx, bitcnt := bitcnt, rem := rem }

/-- The block right after GENERATE was accepted. -/
def started (C : CrcConfig) : State := during C .load 0 0 0

/-- A state whose next event is a cycle with this access. -/
def presenting (a : Access) (s : State) : State := presentFirst (.cycle (some a)) s

/-- A read of an offset, 8 bytes wide. -/
def readOf (a : BitVec 12) : Access := { write := false, addr := a, size := 8, wdata := 0 }

/-- A write to an offset, 8 bytes wide. -/
def writeOf (a : BitVec 12) (v : Word) : Access := { write := true, addr := a, size := 8, wdata := v }

/-- What a command leaves, seen through `f`. -/
def after {α : Type} (r : Result State) (f : State → α) : Option α :=
  match r with
  | .next s => some (f s)
  | .fault _ => none
  | .refused _ => none

theorem tableFind_map_range' (f : Nat → Word) (n a i : Nat) (h : a ≤ i ∧ i < a + n) :
    tableFind ((List.range' a n).map fun k => (k, f k)) i = some (f i) := by
  induction n generalizing a with
  | zero => omega
  | succ n ih =>
    rw [List.range'_succ, List.map_cons, tableFind]
    by_cases hk : a = i
    · simp [hk]
    · rw [if_neg hk]
      exact ih (a + 1) ⟨by omega, by omega⟩

theorem ready_tableRead (C : CrcConfig) (d : Byte) : (ready C).tableRead d = entry d C := by
  have h := tableFind_map_range' (fun k => entry (BitVec.ofNat 8 k) C) 256 0 d.toNat ⟨Nat.zero_le _, by omega⟩
  simp only [State.tableRead, ready, filled, h]
  simp

theorem ready_built (C : CrcConfig) : Built (ready C) :=
  { whole := fun _ => ⟨rfl, ready_tableRead C⟩
    below := fun h => absurd rfl h
    dividing := fun h => nomatch h
    divided := fun h => nomatch h }

/-! ## Decoding: words written out from the opcode map (R93) -/

theorem test_decode_nop : decode 0b0000000000000000000000000000000000000000000000000000000000000000 = .command .nop := by decide
theorem test_decode_generate : decode 0b0000000000000000000000000000000000000000000000000000000000000001 = .command .generate := by
  decide
theorem test_decode_abort : decode 0b0000000000000000000000000000000000000000000000000000000000000010 = .command .abort := by decide
theorem test_decode_ack : decode 0b0000000000000000000000000000000000000000000000000000000000000011 = .command .ack := by decide
theorem test_decode_crcInit : decode 0b0000000000000000000000000000000000000000000000000000000000000100 = .command .crcInit := by
  decide
theorem test_decode_crcUpdate :
    decode 0b0000000000000000000000000000000000000000000000000011000100000101 = .command (.crcUpdate 0x31) := by decide
theorem test_decode_crcFinal : decode 0b0000000000000000000000000000000000000000000000000000000000000110 = .command .crcFinal := by
  decide

/-- 95_test_vectors.md section 2.3: the illegal words. -/
theorem test_decode_illegal :
    decode 0xFF = .illegal .unassignedOpcode ∧ decode 0x100 = .illegal .operandNotZero ∧
      decode 0x10003 = .illegal .reservedBits ∧ decode 0x8000000000000005 = .illegal .reservedBits := by decide

theorem test_decodeTableWord :
    decodeTableWord 64 0x3105 = some (.crcUpdate 0x31) ∧ decodeTableWord 64 7 = none ∧ decodeTableWord 72 (2 ^ 64) = none := by
  decide

/-! ## WellFormed: an ill-formed term for each check, refused -/

theorem test_wellFormed_refuses :
    (Stmt.wr .poly (2 ^ 64)).wellFormed = false ∧ (Stmt.rdt 256).wellFormed = false ∧
      (HostOp.stmt (.rdt 256)).wellFormed = false ∧
      (HostOp.poll .status (2 ^ 64) 0).wellFormed = false ∧ (HostOp.poll .status 0 (2 ^ 64)).wellFormed = false ∧
      (HostOp.config 256 0 0 0 0 0).wellFormed = false ∧ (HostOp.config 8 (2 ^ 64) 0 0 0 0).wellFormed = false ∧
      (HostOp.config 8 0 (2 ^ 64) 0 0 0).wellFormed = false ∧ (HostOp.config 8 0 0 (2 ^ 64) 0 0).wellFormed = false ∧
      (HostOp.config 8 0 0 0 2 0).wellFormed = false ∧ (HostOp.config 8 0 0 0 0 2).wellFormed = false ∧
      (HostOp.crcBytes [0, 256]).wellFormed = false ∧ (HostOp.crcString [Char.ofNat 0xE9]).wellFormed = false := by decide

theorem test_wellFormed_accepts :
    (Stmt.wr .poly (2 ^ 64 - 1)).wellFormed = true ∧ (Stmt.rdt 255).wellFormed = true ∧ (Stmt.rd .acc).wellFormed = true ∧
      (Stmt.command (.crcUpdate 255)).wellFormed = true ∧ (HostOp.config 255 0 0 0 1 1).wellFormed = true ∧
      (HostOp.crcBytes [0, 255]).wellFormed = true := by decide

/-! ## The text of the host assembly (R97, R98) -/

theorem test_line_crcUpdate :
    readLine "crc_update 0x31 ; one byte".toList = .op (.stmt (.command (.crcUpdate 0x31))) := by decide
theorem test_line_wr : readLine "WR CFG, 0x320".toList = .op (.stmt (.wr .cfg 0x320)) := by decide
theorem test_line_config :
    readLine "CONFIG 16, 0x1021, 0, 0, 0, 0".toList = .op (.config 16 0x1021 0 0 0 0) := by decide
theorem test_line_crcString :
    readLine "CRC_STRING \"1;2\" ; a comment".toList = .op (.crcString ['1', ';', '2']) ∧
      readLine "CRC_STRING \"\"".toList = .op (.crcString []) ∧ readLine "CRC_BYTES".toList = .refused := by decide
theorem test_line_refused :
    readLine "RDT 256".toList = .refused ∧ readLine "CRC_UPDATE 256".toList = .refused ∧
      readLine "CRC_UPDATE".toList = .refused ∧ readLine "FOO".toList = .refused := by
  decide

/-- R9: `_` only groups digits, so what has no digit, or `_` at an end, is no number (log entry 16). -/
theorem test_line_digit_groups :
    readLine "RDT 0x_".toList = .refused ∧ readLine "RDT _".toList = .refused ∧ readLine "RDT 1_".toList = .refused ∧
      readLine "WR POLY, 0x1_0000".toList = .op (.stmt (.wr .poly 0x10000)) := by decide

/-! ## polynomial_divider (95_test_vectors.md section 2.1) -/

theorem test_divisionStep :
    divisionStep 0xFFFF 0x1021 16 = 0xEFDF ∧ divisionStep 0x8000 0 16 = 0 ∧ divisionStep 0x80 0x07 8 = 0x07 ∧
      divisionStep 0xFF 0x07 8 = 0xF9 ∧ divisionStep 0x800000 0x864CFB 24 = 0x864CFB ∧
      divisionStep 0x8000000000000000 0x42F0E1EBA9EA3693 64 = 0x42F0E1EBA9EA3693 ∧
      divisionStep 0xFFFFFFFFFFFFFFFF 0x42F0E1EBA9EA3693 64 = 0xBD0F1E145615C96D := by decide

theorem test_rev :
    rev 8 0xA5 = 0xA5 ∧ rev 24 0x864CFB = 0xDF3261 ∧ rev 32 0x04C11DB7 = 0xEDB88320 ∧
      rev 64 0x42F0E1EBA9EA3693 = 0xC96C5795D7870F42 := by decide

/-! ## Table entries and validation (95_test_vectors.md section 2.2) -/

theorem test_entries_xmodem :
    entry 0x00 xmodem = 0 ∧ entry 0x01 xmodem = 0x1021 ∧ entry 0x02 xmodem = 0x2042 ∧ entry 0x80 xmodem = 0x9188 ∧
      entry 0xFF xmodem = 0x1EF0 ∧ entry 0x31 xmodem = 0x2672 := by decide

theorem test_entries_reflected :
    entry 0x01 crc32 = 0x77073096 ∧ entry 0x80 crc32 = 0xEDB88320 ∧ entry 0xFF crc32 = 0x2D02EF8D := by decide

theorem test_entries_mixed :
    entry 0x01 (config 16 0x1021 0 0 true false) = 0x9188 ∧ entry 0x02 (config 16 0x1021 0 0 true false) = 0x48C4 ∧
      entry 0x01 (config 16 0x1021 0 0 false true) = 0x8408 ∧ entry 0x80 (config 16 0x1021 0 0 false true) = 0x1189 := by
  decide

theorem test_validation :
    checkConfig .w64 (config 0 0 0 0 false false) = some .cfgWidth ∧
      checkConfig .w64 (config 10 0x10000 0 0 false false) = some .cfgWidth ∧
      checkConfig .w64 (config 72 0 0 0 false false) = some .cfgWidth ∧
      checkConfig .w32 (config 64 0 0 0 false false) = some .cfgWidth ∧
      checkConfig .w64 (config 8 0x100 0 0 false false) = some .cfgPoly ∧
      checkConfig .w64 (config 16 0xFFFF 0x10000 0x10000 false false) = some .cfgInit ∧
      checkConfig .w64 (config 16 0xFFFF 0xFFFF 0x10000 false false) = some .cfgXorout ∧
      checkConfig .w64 (config 8 0xFF 0xFF 0xFF false false) = none ∧ checkConfig .w64 widest = none := by decide

/-! ## One step of the sequencer (95_test_vectors.md sections 2.1 and 2.2) -/

theorem test_load : (sequencerStep (during xmodem .load 0x80 8 0)).rem = 0x8000 := by decide

theorem test_step :
    (sequencerStep (during xmodem .step 0x80 3 0x4084)).rem = 0x8108 ∧
      (sequencerStep (during xmodem .step 0x80 7 0x48C4)).statusWord = 0x38800001 := by decide

theorem test_store :
    (sequencerStep (during xmodem .store 0x80 8 0x9188)).tableRead 0x80 = 0x9188 ∧
      (sequencerStep (during xmodem .store 255 8 0x1EF0)).statusWord = 0x08FF0006 := by decide

/-! ## One step per command (95_test_vectors.md sections 2.2 to 3) -/

theorem test_nop : after (exec .nop (during xmodem .step 0 0 0)) State.statusWord = some 0x20000001 := by decide

/-- P3 step 2: width 10 is refused with CFG_WIDTH. -/
theorem test_generate_refused :
    after (exec .generate { State.reset with pending := config 10 0x1021 0 0 false false }) State.statusWord =
      some 0x0108 := by decide

/-- A refused GENERATE keeps a finished table (section 2.2). -/
theorem test_generate_keeps_table :
    after (exec .generate { ready xmodem with pending := config 0 0x1021 0 0 false false })
      (fun s => (s.statusWord, s.tableRead 1)) = some (0x08FF010E, 0x1021) := by decide

/-- P4 step 3. -/
theorem test_abort :
    after (exec .abort { during xmodem .step 0 1 0 with err := true, errCode := 6 }) State.statusWord = some 0x01000608 := by
  decide

/-- P5 step 9: ACK lowers the interrupt. -/
theorem test_ack :
    (ready crc32).statusWord = 0x08FF0006 ∧ ({ ready crc32 with doneIe := true } : State).statusWord = 0x08FF0016 ∧
      after (exec .ack { ready crc32 with doneIe := true }) State.statusWord = some 0x08FF0002 := by decide

theorem test_crcInit :
    after (exec .crcInit (ready crc32)) State.acc = some 0xFFFFFFFF ∧
      after (exec .crcInit State.reset) State.statusWord = some 0x0708 := by decide

/-- P2 step 2, and a zero byte onto all ones (section 2.4). -/
theorem test_crcUpdate :
    after (exec (.crcUpdate 0x31) (ready xmodem)) State.acc = some 0x2672 ∧
      after (exec (.crcUpdate 0x00) { ready xmodem with acc := 0xFFFF, table := [(0xFF, 0x1EF0)] }) State.acc = some 0xE1F0 := by decide

/-- P5 step 23, and the empty message of section 2.4. -/
theorem test_crcFinal :
    after (exec .crcFinal { ready crc32 with acc := 0x9B63D02C }) State.result = some 0xCBF43926 ∧
      after (exec .crcFinal { ready (config 16 0x1021 0x1234 0xFFFF false true) with acc := 0x1234 }) State.result =
        some 0xD3B7 := by decide

/-! ## One step of the port (95_test_vectors.md section 2.3) -/

theorem test_reads :
    after (step (presenting (readOf 0x000) State.reset)) State.rsp = some (some ⟨some 0x4352435400004001, false⟩) ∧
      after (step (presenting (readOf 0x008) State.reset)) State.rsp = some (some ⟨some 0, false⟩) ∧
      after (step (presenting (readOf 0x034) State.reset)) State.rsp = some (some ⟨some 0, true⟩) ∧
      after (step (presenting (readOf 0x050) State.reset)) State.rsp = some (some ⟨some 0, true⟩) ∧
      after (step (presenting { readOf 0x030 with size := 4 } State.reset)) State.rsp = some (some ⟨some 0, true⟩) ∧
      after (step (presenting (readOf 0x808) State.reset)) State.rsp = some (some ⟨some 0, true⟩) ∧
      after (step (presenting (readOf 0x808) (ready xmodem))) State.rsp = some (some ⟨some 0x1021, false⟩) := by decide

theorem test_writes :
    after (step (presenting (writeOf 0x010 0xFFFFFFFFFFFFFFFF) State.reset)) (readRegister .cfg) = some 0x3FF ∧
      after (step (presenting (writeOf 0x038 0xFFFFFFFFFFFFFFFF) State.reset)) (readRegister .irqEn) = some 0x3 ∧
      after (step (presenting (writeOf 0x000 5) State.reset)) (fun s => s.rsp.map Response.err) = some (some true) ∧
      after (step (presenting (writeOf 0x808 5) (ready xmodem))) (fun s => s.rsp.map Response.err) = some (some true) := by
  decide

/-- I10 and I11 of 93_implementation_defined.md: a write of the wrong size or alignment, or at a reserved offset. -/
theorem test_refused_writes_answer_zero :
    after (step (presenting (writeOf 0x014 1) State.reset)) State.rsp = some (some ⟨some 0, true⟩) ∧
      after (step (presenting { writeOf 0x010 1 with size := 4 } State.reset)) State.rsp = some (some ⟨some 0, true⟩) ∧
      after (step (presenting (writeOf 0x7F8 1) State.reset)) State.rsp = some (some ⟨some 0, true⟩) := by decide

/-- P6 steps 1 and 6: an illegal word records ILLEGAL_CMD and is answered OKAY. -/
theorem test_illegal_command :
    after (step (presenting (writeOf 0x008 0x07) State.reset)) (fun s => (s.statusWord, s.rsp)) =
        some (0x0508, some ⟨none, false⟩) ∧
      after (step (presenting (writeOf 0x008 0x10003) State.reset)) State.statusWord = some 0x0508 := by decide

/-- Section 2.2: CRC_INIT in the cycle of the last STORE is accepted, a cycle earlier it is refused with BUSY. -/
theorem test_same_cycle :
    after (step (presenting (writeOf 0x008 4) (during xmodem .store 255 8 0x1EF0))) State.statusWord = some 0x08FF0006 ∧
      after (step (presenting (writeOf 0x008 4) (during xmodem .step 255 7 0x0F78))) State.statusWord = some 0x38FF0609 := by
  decide

/-- What the host asks of the interface: the word placed is the one the next step runs. -/
theorem test_withFetchWord :
    after (step (State.reset.withFetchWord 64 1)) State.phase = some .load ∧
      nextEvent (State.reset.withFetchWord 64 1) = .cycle (some (cmdWrite (encode .generate))) := by decide

/-! ## Witnesses: the hypotheses of the statements can be met -/

/-- Divider widths 1 and 64, at the largest values (DivisionStepIsOneBitOfDivision, DivisionStepHasTheFullWidthForm,
DivisionAndEntriesAreLinear). -/
theorem witness_divider :
    (1 ≤ 1 ∧ 1 ≤ 64 ∧ (1 : Word).toNat < 2 ^ 1 ∧ (0 : Word).toNat < 2 ^ 1) ∧
      (1 ≤ 64 ∧ 64 ≤ 64 ∧ (0xFFFFFFFFFFFFFFFF : Word).toNat < 2 ^ 64) := by decide

/-- Both branches of the top bit, at W = 64. -/
theorem witness_divider_branches :
    (0x8000000000000000 : Word).toNat.testBit (64 - 1) = true ∧ (0x7FFFFFFFFFFFFFFF : Word).toNat.testBit (64 - 1) = false := by
  decide

/-- ReversalMovesBitIToBitNMinusOneMinusI, ReversalIsAnInvolution: n = 0 and n = 64. -/
theorem witness_reversal :
    (0 ≤ 64 ∧ (0 : Word).toNat < 2 ^ 0) ∧ (64 ≤ 64 ∧ (0xFFFFFFFFFFFFFFFF : Word).toNat < 2 ^ 64 ∧ 63 < 64) := by decide

/-- Valid configurations, narrow and widest (DivisionAndEntriesAreLinear, BuildHas256EntriesInRange,
UnreflectedEntriesAreRecovered). -/
theorem witness_valid :
    (config 8 0xFF 0xFF 0xFF true true).Valid .w8 ∧ widest.Valid .w64 ∧ crc32.Valid .w32 := by
  refine ⟨?_, ?_, ?_⟩ <;> simp only [CrcConfig.Valid, Supported, WMax.bits] <;> decide

/-- ConfigurationChecksInOrder: its last clause, and a configuration at each boundary. -/
theorem witness_ConfigurationChecksInOrder :
    (Supported .w64 64 ∧ widest.width = 64) ∧ ¬ Supported .w8 16 ∧
      (Supported .w8 8 ∧ 2 ^ 8 ≤ (0x100 : Word).toNat ∧ (0xFF : Word).toNat < 2 ^ 8) := by
  simp only [Supported, WMax.bits]
  decide

/-- GeneratedTablesHaveTheKnownEntries, both clauses and the known answer. -/
theorem witness_GeneratedTablesHaveTheKnownEntries :
    (ready xmodem).act.Valid (ready xmodem).wMax ∧ Built (ready xmodem) ∧ (ready xmodem).valid = true ∧
      (ready xmodem).act.reflectInput = false ∧ (ready xmodem).act.reflectOutput = false ∧
      (ready xmodem).act.width = 16 ∧ (ready xmodem).act.polynomial = 0x1021 := by
  refine ⟨?_, ready_built xmodem, by decide, by decide, by decide, by decide, by decide⟩
  simp only [CrcConfig.Valid, Supported, WMax.bits]
  decide

theorem witness_GenerateIsAccepted :
    State.reset.phase = .idle ∧ State.reset.pending.Valid State.reset.wMax ∧
      (ready widest).phase = .idle ∧ (ready widest).pending.Valid (ready widest).wMax := by
  simp only [CrcConfig.Valid, Supported, WMax.bits]
  decide

theorem witness_GenerateIsRefused :
    (during xmodem .store 255 8 0).phase ≠ .idle ∧
      ({ State.reset with pending := config 16 0x10000 0 0 false false } : State).phase = .idle ∧
      ¬ ({ State.reset with pending := config 16 0x10000 0 0 false false } : State).pending.Valid .w64 ∧
      ¬ (config 10 0 0 0 false false).Valid .w64 ∧ ¬ (config 16 0xFFFF 0x10000 0x10000 false false).Valid .w64 ∧
      ¬ (config 16 0xFFFF 0xFFFF 0x10000 false false).Valid .w64 := by
  simp only [CrcConfig.Valid, Supported, WMax.bits]
  decide

/-- AbortStopsARunningGeneration: every clause. -/
theorem witness_AbortStopsARunningGeneration :
    (started xmodem).phase ≠ .idle ∧ State.reset.phase = .idle ∧
      (let s := presenting (cmdWrite (encode .abort)) (during xmodem .store 255 8 0)
       s.powerLost = false ∧ nextEvent s = .cycle (some (cmdWrite (encode .abort))) ∧ s.phase = .store ∧ s.idx = 255) := by
  decide

/-- SequencerStepsByPhase: every phase, STORE at entries 254 and 255. -/
theorem witness_SequencerStepsByPhase :
    State.reset.phase = .idle ∧ (started xmodem).phase = .load ∧ (during xmodem .step 0 7 0).phase = .step ∧
      ((during xmodem .store 254 8 0).phase = .store ∧ (during xmodem .store 254 8 0).idx ≠ 255) ∧
      ((during xmodem .store 255 8 0).phase = .store ∧ (during xmodem .store 255 8 0).idx = 255) := by decide

theorem witness_GenerationBuildsTheWholeTable :
    State.reset.phase = .idle ∧ State.reset.pending.Valid State.reset.wMax ∧ ∃ u, exec .generate State.reset = .next u := by
  refine ⟨by decide, ?_, _, rfl⟩
  simp only [CrcConfig.Valid, Supported, WMax.bits]
  decide

/-- A host that writes GENERATE, ACK and CFG, reads STATUS and idles. -/
def busyHost : List HostEvent :=
  [ .cycle (some (cmdWrite (encode .generate))), .cycle (some (cmdWrite (encode .ack))), .cycle (some (writeOf 0x010 8)),
    .cycle (some (readOf 0x030)), .cycle none ]

/-- GenerationKeepsItsTimetable and GenerationCompletesInCycle2560: the premises, with a host that is not idle, at both ends
of the range of k. -/
theorem witness_timetable :
    let s : State := { started xmodem with inputs := busyHost }
    s.powerLost = false ∧ s.phase = .load ∧ s.idx = 0 ∧ s.bitcnt = 0 ∧ s.valid = false ∧
      (∀ e ∈ s.inputs.take 2559, Undisturbed e) ∧ (∀ e ∈ s.inputs.take 1, Undisturbed e) ∧
      Quiet ((s.inputs.drop 2559).headD (.cycle none)) := by
  have h : ∀ e ∈ busyHost, Undisturbed e := by
    intro e he
    simp only [busyHost, List.mem_cons, List.not_mem_nil, or_false] at he
    rcases he with rfl | rfl | rfl | rfl | rfl <;> exact ⟨⟨_, rfl⟩, by decide⟩
  exact ⟨rfl, rfl, rfl, rfl, rfl, fun e he => h e (List.mem_of_mem_take he), fun e he => h e (List.mem_of_mem_take he),
    ⟨_, rfl⟩, by decide⟩

/-- CrcUpdateFoldsOneByte, CrcInitAndCrcFinalComplete. -/
theorem witness_message : (ready crc32).phase = .idle ∧ (ready crc32).valid = true := by decide

theorem witness_MessageCommandsNeedACompleteTable :
    ((started xmodem).phase ≠ .idle ∧ (.crcInit : Instr) = .crcInit) ∧
      (State.reset.phase = .idle ∧ State.reset.valid = false ∧ ∃ b, Instr.crcUpdate 0xFF = .crcUpdate b) := by
  refine ⟨by decide, by decide, by decide, _, rfl⟩

theorem witness_MessageCrcEqualsTheBitwiseReference :
    (ready crc32).phase = .idle ∧ (ready crc32).valid = true ∧ (ready crc32).act.Valid (ready crc32).wMax ∧
      Built (ready crc32) := by
  refine ⟨by decide, by decide, ?_, ready_built crc32⟩
  simp only [CrcConfig.Valid, Supported, WMax.bits]
  decide

/-- CommandFrames, for a command that is accepted and one that is refused, and the premise of its first clause both ways. -/
theorem witness_CommandFrames :
    (∃ t, exec .crcFinal (ready crc32) = .next t) ∧ (∃ t, exec .generate (started xmodem) = .next t) ∧
      (∃ t, exec .abort (started xmodem) = .next t) ∧ ((.crcFinal : Instr) ≠ .abort ∧ (ready crc32).phase = .idle) :=
  ⟨⟨_, rfl⟩, ⟨_, rfl⟩, ⟨_, rfl⟩, by decide, rfl⟩

/-- CycleIsSequencerThenAccess: a cycle without and one with an access. -/
theorem witness_CycleIsSequencerThenAccess :
    State.reset.powerLost = false ∧ nextEvent State.reset = .cycle none ∧
      nextEvent (presenting (readOf 0x030) State.reset) = .cycle (some (readOf 0x030)) := by decide

/-- CmdWriteRunsTheDecodedCommand, CommandErrorsByPriority: a legal and an illegal word, a clean error record after the
sequencer's step. -/
theorem witness_CmdWrite :
    (let s := presenting (cmdWrite 0xFF05) (ready xmodem)
     s.powerLost = false ∧ nextEvent s = .cycle (some { write := true, addr := 0x008, size := 8, wdata := 0xFF05 }) ∧
       decode 0xFF05 = .command (.crcUpdate 0xFF) ∧ (afterSequencer s).err = false ∧ (afterSequencer s).errCode = 0) ∧
      (let s := presenting (cmdWrite 0x07) (started xmodem)
       s.powerLost = false ∧ nextEvent s = .cycle (some (cmdWrite 0x07)) ∧ decode 0x07 = .illegal .unassignedOpcode ∧
         (afterSequencer s).err = false ∧ (afterSequencer s).errCode = 0) := by decide

/-- FinalStoreComesBeforeTheAccess: every clause. -/
theorem witness_FinalStoreComesBeforeTheAccess :
    let s := during xmodem .store 255 8 0x1EF0
    s.powerLost = false ∧ s.phase = .store ∧ s.idx = 255 ∧
      nextEvent (presenting (cmdWrite (encode .crcInit)) s) = .cycle (some (cmdWrite (encode .crcInit))) ∧
      nextEvent (presenting (cmdWrite (encode .ack)) s) = .cycle (some (cmdWrite (encode .ack))) ∧
      decode 0xFF = .illegal .unassignedOpcode ∧ nextEvent (presenting (cmdWrite 0xFF) s) = .cycle (some (cmdWrite 0xFF)) ∧
      nextEvent (presentFirst (.resetLow none) s) = .resetLow none := by decide

theorem witness_FirstErrorIsKept :
    State.reset.err = false ∧ ({ State.reset with err := true, errCode := 7 } : State).err = true := by decide

/-- NarrowAndMisalignedAccessesAreRefused: each of the two, at the ends of their ranges. -/
theorem witness_NarrowAndMisaligned :
    ((readOf 0x034).addr.toNat % 8 ≠ 0 ∧ (writeOf 0xFFF 1).addr.toNat % 8 ≠ 0) ∧
      (({ readOf 0x030 with size := 4 } : Access).size ≠ 8 ∧ ({ readOf 0x030 with size := 0 } : Access).size ≠ 8) ∧
      nextEvent (presenting (readOf 0x034) State.reset) = .cycle (some (readOf 0x034)) ∧
      nextEvent (presenting (writeOf 0xFFF 1) State.reset) = .cycle (some (writeOf 0xFFF 1)) := by decide

/-- RegisterRegionAnswers: a register, a read-only register, the first and the last reserved offset. -/
theorem witness_RegisterRegionAnswers :
    nextEvent (presenting (readOf (regOffset .acc)) State.reset) =
        .cycle (some { write := false, addr := regOffset .acc, size := 8, wdata := 0 }) ∧
      nextEvent (presenting (writeOf (regOffset .id) 5) State.reset) =
        .cycle (some { write := true, addr := regOffset .id, size := 8, wdata := 5 }) ∧
      (0x050 ≤ (0x050#12).toNat ∧ (0x050#12).toNat ≤ 0x7F8 ∧ (0x050#12).toNat % 8 = 0) ∧
      (0x050 ≤ (0x7F8#12).toNat ∧ (0x7F8#12).toNat ≤ 0x7F8 ∧ (0x7F8#12).toNat % 8 = 0) := by decide

/-- TableWindowAnswers: the first and the last entry, with VALID = 1 and with VALID = 0. -/
theorem witness_TableWindowAnswers :
    (BitVec.ofNat 12 (0x800 + 8 * (0 : Byte).toNat) = 0x800 ∧ BitVec.ofNat 12 (0x800 + 8 * (255 : Byte).toNat) = 0xFF8) ∧
      (let s := presenting (readOf 0xFF8) (ready xmodem)
       s.powerLost = false ∧ (afterSequencer s).valid = true ∧
         nextEvent s = .cycle (some { write := false, addr := 0xFF8, size := 8, wdata := 0 })) ∧
      (let s := presenting (readOf 0x800) (started xmodem)
       s.powerLost = false ∧ (afterSequencer s).valid = false ∧
         nextEvent s = .cycle (some { write := false, addr := 0x800, size := 8, wdata := 0 })) ∧
      nextEvent (presenting (writeOf 0x808 1) State.reset) =
        .cycle (some { write := true, addr := 0x808, size := 8, wdata := 1 }) := by
  refine ⟨by decide, ⟨rfl, rfl, rfl⟩, ⟨rfl, rfl, rfl⟩, rfl⟩

/-- ReadsChangeNothing, RegisterWritesTakeEffect, and the premises of a powered cycle. -/
theorem witness_accesses :
    (nextEvent (presenting (readOf 0x030) State.reset) = .cycle (some (readOf 0x030)) ∧ (readOf 0x030).write = false) ∧
      (∀ r : Reg, r = .cfg ∨ r = .poly ∨ r = .init ∨ r = .xorout ∨ r = .irqEn →
        (presenting (writeOf (regOffset r) 0xFFFFFFFFFFFFFFFF) (started xmodem)).powerLost = false ∧
          nextEvent (presenting (writeOf (regOffset r) 0xFFFFFFFFFFFFFFFF) (started xmodem)) =
            .cycle (some { write := true, addr := regOffset r, size := 8, wdata := 0xFFFFFFFFFFFFFFFF })) :=
  ⟨by decide, fun _ _ => ⟨rfl, rfl⟩⟩

theorem witness_RefusedAccessesChangeNothing :
    ∃ t r, step (presenting (readOf 0x034) State.reset) = .next t ∧ t.rsp = some r ∧ r.err = true := ⟨_, _, rfl, rfl, rfl⟩

/-- The statements about any step that keeps power (OnlyTheLastStoreSetsValid, OnlyTheLastStoreSetsDone,
OnlyAckAndResetClearErr): VALID and DONE set by the last STORE; VALID cleared by GENERATE and by reset; ERR set, and cleared
by ACK. -/
theorem witness_what_changes :
    (∃ t, step (during xmodem .store 255 8 0x1EF0) = .next t ∧ t.powerLost = false ∧ t.valid = true ∧ t.done = true) ∧
      (∃ t, step (presenting (cmdWrite (encode .generate)) (ready xmodem)) = .next t ∧ t.powerLost = false ∧
        t.valid = false ∧ t.done = false) ∧
      (∃ t, step (presentFirst (.resetLow none) (ready xmodem)) = .next t ∧ t.powerLost = false ∧ t.valid = false) ∧
      (∃ t, step (presenting (cmdWrite 0x07) State.reset) = .next t ∧ t.powerLost = false ∧ t.err = true) ∧
      ∃ t, step (presenting (cmdWrite (encode .ack)) { ready xmodem with err := true, errCode := 5 }) = .next t ∧
        t.powerLost = false ∧ t.err = false ∧ t.errCode = 0 :=
  ⟨⟨_, rfl, rfl, rfl, rfl⟩, ⟨_, rfl, rfl, rfl, rfl⟩, ⟨_, rfl, rfl, rfl⟩, ⟨_, rfl, rfl, rfl⟩, _, rfl, rfl, rfl, rfl⟩

/-- OnlyStoreWritesTheTable and WhoWritesActAccAndResult: a cycle that writes TABLE, one that writes ACC and RESULT. -/
theorem witness_cycles :
    (let s := during xmodem .store 7 8 0x1EF0
     s.powerLost = false ∧ nextEvent s = .cycle none ∧ s.phase = .store ∧ (∃ t, step s = .next t) ∧
       ¬ (issuedCommand (nextEvent s) = some .abort ∧ (afterSequencer s).phase ≠ .idle)) ∧
      (let s := presenting (cmdWrite (encode .generate)) { ready xmodem with acc := 1, result := 1 }
       s.powerLost = false ∧ issuedCommand (nextEvent s) = some .generate ∧ (afterSequencer s).phase = .idle ∧
         checkConfig s.wMax s.pending = none ∧ ∃ t, step s = .next t ∧ t.acc ≠ s.acc ∧ t.result ≠ s.result) := by
  refine ⟨⟨rfl, rfl, rfl, ⟨_, rfl⟩, by decide⟩, rfl, by decide, rfl, by decide, _, rfl, by decide, by decide⟩

/-- A read of POLY, whose answer may differ, and one of STATUS, whose answer may not. -/
theorem witness_PendingConfigurationWaitsForGenerate :
    (let s := presenting (readOf 0x018) State.reset
     (∃ t, step s = .next t) ∧ issuedCommand (nextEvent s) ≠ some .generate) ∧
      (let s := presenting (readOf 0x030) State.reset
       (∃ t, step s = .next t) ∧ issuedCommand (nextEvent s) ≠ some .generate) := ⟨⟨⟨_, rfl⟩, by decide⟩, ⟨_, rfl⟩, by decide⟩

/-- TableReadsReturnTheBuiltTable, at the last entry. -/
theorem witness_TableReadsReturnTheBuiltTable :
    let s := presenting (stmtAccess (.rdt (255 : Byte).toNat)) (ready xmodem)
    s.powerLost = false ∧ Built s ∧ nextEvent s = .cycle (some (stmtAccess (.rdt (255 : Byte).toNat))) ∧
      ∃ t v, step s = .next t ∧ t.rsp = some { rdata := some v, err := false } := by
  refine ⟨rfl, ⟨fun _ => ⟨rfl, fun d => ?_⟩, fun h => absurd rfl h, fun h => (nomatch h),
    fun h => (nomatch h)⟩, rfl, _, _, rfl, rfl⟩
  exact ready_tableRead xmodem d

/-- ResetHoldsTheResetState: without and with an access, also without power. -/
theorem witness_ResetHoldsTheResetState :
    nextEvent (presentFirst (.resetLow none) (ready xmodem)) = .resetLow none ∧
      nextEvent (presentFirst (.resetLow (some (readOf 0x000))) { started xmodem with powerLost := true }) =
        .resetLow (some (readOf 0x000)) := ⟨rfl, rfl⟩

/-- ClockAndPower: its three clauses. -/
theorem witness_ClockAndPower :
    ((presentFirst .clockStopped (started xmodem)).powerLost = false ∧
        nextEvent (presentFirst .clockStopped (started xmodem)) = .clockStopped) ∧
      nextEvent (presentFirst .powerRemoved (started xmodem)) = .powerRemoved ∧
      (({ State.reset with powerLost := true } : State).powerLost = true ∧
        ∀ req, nextEvent { State.reset with powerLost := true } ≠ .resetLow req) :=
  ⟨⟨rfl, rfl⟩, rfl, rfl, fun _ h => nomatch h⟩

/-- StepsKeepRegistersInRange, StepsKeepTheTableCorrect, ReachableStatesAreInRange: the state after GENERATE meets both
invariants, so does a finished table the second, and the state after reset is reachable. -/
theorem witness_invariants :
    (InRange (started crc32) ∧ ∃ t, step (started crc32) = .next t) ∧ Built (started crc32) ∧
      (Built (ready crc32) ∧ ∃ t, step (ready crc32) = .next t) ∧ Reachable State.reset ∧ State.reset.powerLost = false := by
  refine ⟨⟨?_, _, rfl⟩, ?_, ⟨ready_built crc32, _, rfl⟩, ⟨.w64, [], 0, rfl⟩, rfl⟩
  · exact
      { actValid := fun _ => by simp only [CrcConfig.Valid, Supported, WMax.bits]; decide
        remFits := fun _ => by decide
        validIdle := fun h => nomatch h
        busyNotDone := fun _ => rfl
        tableFits := fun h => nomatch h
        storedFits := fun _ d h => absurd h (Nat.not_lt_zero _)
        accFits := by decide
        resultFits := by decide
        noError := fun _ => rfl
        errorCode := fun h => nomatch h
        bitcntBound := by decide
        stepCount := fun h => nomatch h
        tableForm := ⟨List.Pairwise.nil, fun _ h => nomatch h⟩ }
  · exact ⟨fun h => (nomatch h), fun _ => ⟨rfl, fun _ h => absurd h (Nat.not_lt_zero _)⟩, fun h => (nomatch h),
      fun h => (nomatch h)⟩

/-- StatementsAreTheirAccesses, ConfigWritesThePendingConfiguration, WaitIdleEnds. -/
theorem witness_host_programs :
    (2 ^ 64 - 1 < 2 ^ 64 ∧ 255 < 256) ∧
      (State.reset.powerLost = false ∧
        (HostOp.config 255 (2 ^ 64 - 1) (2 ^ 64 - 1) (2 ^ 64 - 1) 1 1).wellFormed = true) ∧
      ((started xmodem).powerLost = false ∧ (started xmodem).phase = .load ∧ (started xmodem).idx = 0 ∧
        (started xmodem).bitcnt = 0 ∧ (started xmodem).valid = false) ∧ State.reset.phase = .idle := by decide

/-- WindowAndByteLanesOfTheBlock: the first and the last bit of the lanes. -/
theorem witness_lanes : (0 < 8 ∧ 7 < 8) ∧ (byteLane 0x8000000000000001 0).getLsbD 0 = true ∧
    (byteLane 0x8000000000000001 7).getLsbD 7 = true := by decide

end Sys2Proof.Tests
end

section
/-! The range invariant of R43: one lemma per update of the state, one for a command, one for a cycle, one for a step, and
the induction over the reachable states (O56). -/

namespace Sys2Proof.Machine

/-- Every register is carried in a 64-bit word (R5). -/
theorem bits_le_wordSize (m : WMax) : m.bits ≤ 64 := by cases m <;> decide

theorem CrcConfig.Valid.width_le {m : WMax} {C : CrcConfig} (h : C.Valid m) : C.width.toNat ≤ 64 := by
  obtain ⟨⟨-, -, hW⟩, -⟩ := h
  exact hW.trans (bits_le_wordSize m)

/-! ## Updates that touch no register of R43, or clear them -/

theorem inRange_takeEvent {s : State} (h : InRange s) : InRange (takeEvent s) := { h with }

theorem inRange_silent {s : State} (h : InRange s) : InRange (silent s) := { h with }

theorem inRange_respond {s : State} (r : Response) (h : InRange s) : InRange (respond r s) := { h with }

theorem inRange_writeRegister {s : State} (r : Reg) (v : Word) (h : InRange s) : InRange (writeRegister r v s) := by
  cases r <;> exact { h with }

theorem inRange_of_raises {s t : State} (h : InRange s) (ht : Raises s t) : InRange t := by
  obtain ⟨c, hlow, hhigh, rfl⟩ := ht
  refine { h with noError := (nomatch ·), errorCode := fun _ => ?_ }
  cases he : s.err with
  | true => simpa [he] using h.errorCode he
  | false => simpa [he] using ⟨hlow, hhigh⟩

theorem inRange_acknowledge {s : State} (h : InRange s) : InRange (acknowledge s) :=
  { h with busyNotDone := fun _ => rfl, noError := fun _ => rfl, errorCode := fun he => nomatch he }

/-- The reset state, whatever the model's own fields hold, is in range (R44). -/
theorem inRange_resetWith (m : WMax) (draws : Nat) (inputs : List HostEvent) (rsp : Option Response) :
    InRange { State.resetWith m with draws := draws, inputs := inputs, rsp := rsp } where
  actValid h := h.elim (absurd rfl) fun hv => nomatch hv
  remFits h := absurd rfl h
  validIdle h := nomatch h
  busyNotDone _ := rfl
  tableFits h := nomatch h
  storedFits h := absurd rfl h
  accFits := Nat.two_pow_pos _
  resultFits := Nat.two_pow_pos _
  noError _ := rfl
  errorCode h := nomatch h
  bitcntBound := Nat.zero_le 8
  stepCount h := nomatch h
  tableForm := reset_table_wf m

theorem inRange_enterReset (req : Option Access) (s : State) : InRange (enterReset req s) :=
  inRange_resetWith s.wMax (s.draws + 1) s.inputs (req.map fun _ => Response.refused)

/-! ## The sequencer -/

theorem inRange_seqLoad {s : State} (h : InRange s) (hp : s.phase = .load) : InRange (seqLoad s) := by
  have hbusy : s.phase ≠ .idle := by simp [hp]
  have hact := h.actValid (.inl hbusy)
  exact
    { h with
      actValid := fun _ => hact
      remFits := fun _ => placeByte_lt hact.width_le _
      validIdle := fun hv => absurd (h.validIdle hv) hbusy
      busyNotDone := fun _ => h.busyNotDone hbusy
      storedFits := fun _ => h.storedFits hbusy
      bitcntBound := Nat.zero_le 8
      stepCount := fun _ => Nat.zero_lt_succ 7 }

theorem inRange_seqDivide {s : State} (h : InRange s) (hp : s.phase = .step) : InRange (seqDivide s) := by
  have hbusy : s.phase ≠ .idle := by simp [hp]
  have hact := h.actValid (.inl hbusy)
  have hpoly : s.act.polynomial.toNat < 2 ^ s.act.width.toNat := hact.2.1
  have hcount := h.stepCount hp
  exact
    { h with
      actValid := fun _ => hact
      remFits := fun _ => divisionStep_lt hact.width_le hpoly
      validIdle := fun hv => absurd (h.validIdle hv) hbusy
      busyNotDone := fun _ => h.busyNotDone hbusy
      storedFits := fun _ => h.storedFits hbusy
      bitcntBound := by simp only [seqDivide_bitcnt]; bv_omega
      stepCount := fun hstep => by
        have hne : s.bitcnt + 1 ≠ 8 := fun h8 => by rw [seqDivide_phase, if_pos h8] at hstep; cases hstep
        simp only [seqDivide_bitcnt]
        bv_omega }

/-- After STORE the entries up to IDX are in range: the earlier ones were, and the one stored is a reflected remainder. -/
theorem tableWrite_remainder_fits {s : State} (h : InRange s) (hbusy : s.phase ≠ .idle) {d : Byte}
    (hd : d.toNat ≤ s.idx.toNat) :
    ((s.tableWrite s.idx (reflectWord s.act.reflectOutput s.act.width.toNat s.rem)).tableRead d).toNat <
      2 ^ s.act.width.toNat := by
  rw [tableRead_tableWrite]
  split
  · exact reflectWord_lt (h.actValid (.inl hbusy)).width_le _ (h.remFits hbusy)
  · rename_i hne
    exact h.storedFits hbusy d (by bv_omega)

theorem inRange_seqStore {s : State} (h : InRange s) (hp : s.phase = .store) : InRange (seqStore s) := by
  have hbusy : s.phase ≠ .idle := by simp [hp]
  have hact := h.actValid (.inl hbusy)
  have hform := State.tableWrite_wf s.idx (reflectWord s.act.reflectOutput s.act.width.toNat s.rem) h.tableForm
  unfold seqStore
  by_cases hlast : s.idx = 255
  · rw [if_pos hlast]
    exact
      { h with
        actValid := fun _ => hact
        remFits := fun hi => absurd rfl hi
        validIdle := fun _ => rfl
        busyNotDone := fun hi => absurd rfl hi
        tableFits := fun _ d => tableWrite_remainder_fits h hbusy (by bv_omega)
        storedFits := fun hi => absurd rfl hi
        stepCount := fun hs => nomatch hs
        tableForm := hform }
  · rw [if_neg hlast]
    exact
      { h with
        actValid := fun _ => hact
        remFits := fun _ => h.remFits hbusy
        validIdle := fun hv => absurd (h.validIdle hv) hbusy
        busyNotDone := fun _ => h.busyNotDone hbusy
        tableFits := fun hv => absurd (h.validIdle hv) hbusy
        storedFits := fun _ d hd => tableWrite_remainder_fits h hbusy (by simp only at hd; bv_omega)
        stepCount := fun hs => nomatch hs
        tableForm := hform }

theorem inRange_sequencerStep {s : State} (h : InRange s) : InRange (sequencerStep s) := by
  unfold sequencerStep
  split
  case h_1 => exact h
  case h_2 hp => exact inRange_seqLoad h hp
  case h_3 hp => exact inRange_seqDivide h hp
  case h_4 hp => exact inRange_seqStore h hp

/-! ## The commands -/

theorem inRange_acceptGenerate {s : State} (h : InRange s) (hc : checkConfig s.wMax s.pending = none) :
    InRange (acceptGenerate s) :=
  { h with
    actValid := fun _ => valid_of_checkConfig hc
    remFits := fun _ => Nat.two_pow_pos _
    validIdle := fun hv => nomatch hv
    busyNotDone := fun _ => rfl
    tableFits := fun hv => nomatch hv
    storedFits := fun _ _ hd => absurd hd (Nat.not_lt_zero _)
    accFits := Nat.two_pow_pos _
    resultFits := Nat.two_pow_pos _
    bitcntBound := Nat.zero_le 8
    stepCount := fun hs => nomatch hs }

theorem inRange_abortGeneration {s : State} (h : InRange s) (hbusy : s.phase ≠ .idle) : InRange (abortGeneration s) :=
  { h with
    actValid := fun _ => h.actValid (.inl hbusy)
    remFits := fun hi => absurd rfl hi
    validIdle := fun _ => rfl
    busyNotDone := fun hi => absurd rfl hi
    tableFits := fun hv => absurd (h.validIdle hv) hbusy
    storedFits := fun hi => absurd rfl hi
    stepCount := fun hs => nomatch hs
    tableForm := forgetTable_wf s }

theorem updatedAcc_lt {s : State} (h : InRange s) (hv : s.valid = true) (b : Byte) :
    (updatedAcc s b).toNat < 2 ^ s.act.width.toNat := by
  have hW := (h.actValid (.inr hv)).width_le
  exact toNat_xor_lt (and_widthMask_lt hW _) (reflectWord_lt hW _ (h.tableFits hv _))

theorem finishedCrc_lt {s : State} (h : InRange s) (hv : s.valid = true) :
    (finishedCrc s).toNat < 2 ^ s.act.width.toNat := by
  have hW := (h.actValid (.inr hv)).width_le
  obtain ⟨-, -, -, hxor⟩ := h.actValid (.inr hv)
  exact toNat_xor_lt (reflectWord_lt hW _ h.accFits) hxor

/-- Every command keeps the invariant. -/
theorem inRange_exec {i : Instr} {s t : State} (h : InRange s) (hx : exec i s = .next t) : InRange t := by
  cases i with
  | nop =>
    rw [execNop_cases hx]
    exact h
  | generate =>
    obtain ⟨-, hr⟩ | ⟨-, hc, rfl⟩ := execGenerate_cases hx
    · exact inRange_of_raises h hr
    · exact inRange_acceptGenerate h hc
  | abort =>
    obtain ⟨-, rfl⟩ | ⟨hbusy, rfl⟩ := execAbort_cases hx
    · exact h
    · exact inRange_abortGeneration h hbusy
  | ack =>
    rw [execAck_cases hx]
    exact inRange_acknowledge h
  | crcInit =>
    obtain ⟨-, hr⟩ | ⟨-, hv, rfl⟩ := execCrcInit_cases hx
    · exact inRange_of_raises h hr
    · obtain ⟨-, -, hinit, -⟩ := h.actValid (.inr hv)
      exact { h with accFits := hinit }
  | crcUpdate b =>
    obtain ⟨-, hr⟩ | ⟨-, hv, rfl⟩ := execCrcUpdate_cases hx
    · exact inRange_of_raises h hr
    · exact { h with accFits := updatedAcc_lt h hv b }
  | crcFinal =>
    obtain ⟨-, hr⟩ | ⟨-, hv, rfl⟩ := execCrcFinal_cases hx
    · exact inRange_of_raises h hr
    · exact { h with resultFits := finishedCrc_lt h hv }

/-! ## Cycles, steps and runs -/

/-- An illegal command word raises an error as the refused commands do (R95). -/
theorem raises_illegalCmd (s : State) : Raises s (raiseError .illegalCmd s) := ⟨.illegalCmd, by decide, by decide, rfl⟩

theorem inRange_cycle {req : Option Access} {s t : State} (h : InRange s) (hc : cycleWith exec req s = .next t) :
    InRange t := by
  have hseq := inRange_sequencerStep h
  obtain ⟨-, rfl⟩ | ⟨r, rfl, -⟩ | ⟨r, v, -, -, rfl, -⟩ | ⟨-, i, u, -, -, hx, rfl⟩ | ⟨-, -, -, -, rfl⟩ := cycle_cases hc
  · exact inRange_silent hseq
  · exact inRange_respond r hseq
  · exact inRange_respond _ (inRange_writeRegister r v hseq)
  · exact inRange_respond _ (inRange_exec hseq hx)
  · exact inRange_respond _ (inRange_of_raises hseq (raises_illegalCmd _))

/-- Every step keeps the invariant; reset establishes it even where power was lost. -/
theorem whilePowered_inRange_step {s t : State} (h : WhilePowered InRange s) (hs : step s = .next t) :
    WhilePowered InRange t := by
  intro hpow
  obtain ⟨req, -, rfl⟩ | ⟨req, -, rfl⟩ | ⟨hp, -, rfl⟩ | ⟨req, hp, -, hc⟩ := step_cases hs
  · exact inRange_enterReset req _
  · simp at hpow
  · exact inRange_silent (inRange_takeEvent (h hp))
  · exact inRange_cycle (inRange_takeEvent (h hp)) hc

/-- What every step keeps is kept by every run. -/
theorem run_preserves {P : State → Prop} (hstep : ∀ s t, P s → step s = .next t → P t) (n : Nat) {s t : State}
    (hs : P s) (hrun : Sys2Proof.core.run n s = .next t) : P t := by
  induction n generalizing s with
  | zero =>
    cases hrun
    exact hs
  | succ n ih =>
    cases hx : step s with
    | next u =>
      have hrest : Sys2Proof.core.run (n + 1) s = Sys2Proof.core.run n u := by
        simp [Host.Core.run, Sys2Proof.core, hx]
      exact ih (hstep s u hs hx) (hrest ▸ hrun)
    | fault e => cases e
    | refused e => simp [Host.Core.run, Sys2Proof.core, hx] at hrun

/-- An invariant of the reset states that every step keeps holds of every reachable state. -/
theorem reachable_induction {P : State → Prop}
    (hreset : ∀ (m : WMax) (inputs : List HostEvent), P { State.resetWith m with inputs := inputs })
    (hstep : ∀ s t, P s → step s = .next t → P t) {s : State} (h : Reachable s) : P s := by
  obtain ⟨m, inputs, n, hrun⟩ := h
  exact run_preserves hstep n (hreset m inputs) hrun

theorem reachable_inRange {s : State} (h : Reachable s) : WhilePowered InRange s :=
  reachable_induction (fun m inputs _ => inRange_resetWith m 0 inputs none) (fun _ _ => whilePowered_inRange_step) h

/-- Settles O56: R43 is what the range invariant says of a reachable state with power. -/
theorem reachableStatesAreInRange : Obligations.ReachableStatesAreInRange := by
  intro s hreach hpow
  have h := reachable_inRange hreach hpow
  exact ⟨fun hbusy => ⟨h.remFits hbusy, (h.actValid (.inl hbusy)).1⟩, h.tableFits, h.accFits, h.resultFits, h.noError,
    h.bitcntBound⟩

end Sys2Proof.Machine
end

section
/-! The numbers that reads of ID, CFG, STATUS and IRQ_EN return (O36): a concatenation of fields is their sum at their bit
places. -/

namespace Sys2Proof.Machine

/-- Concatenation in arithmetic: the upper field is shifted past the lower one. -/
theorem toNat_append_eq_add {n k : Nat} (x : BitVec n) (y : BitVec k) :
    (x ++ y).toNat = x.toNat * 2 ^ k + y.toNat := by
  rw [BitVec.toNat_append, ← Nat.shiftLeft_add_eq_or_of_lt y.isLt, Nat.shiftLeft_eq]

theorem idWord_toNat (m : WMax) : (idWord m).toNat = 0x43524354 * 2 ^ 32 + m.bits * 2 ^ 8 + 1 := by
  cases m <;> decide

theorem cfgWord_toNat (C : CrcConfig) :
    (cfgWord C).toNat = C.reflectOutput.toNat * 2 ^ 9 + C.reflectInput.toNat * 2 ^ 8 + C.width.toNat := by
  simp only [cfgWord, toNat_append_eq_add, BitVec.toNat_ofBool, BitVec.toNat_ofNat]
  omega

theorem irqEnWord_toNat (s : State) : (irqEnWord s).toNat = s.errIe.toNat * 2 + s.doneIe.toNat := by
  simp only [irqEnWord, toNat_append_eq_add, BitVec.toNat_ofBool, BitVec.toNat_ofNat]
  omega

theorem statusWord_toNat (s : State) :
    s.statusWord.toNat =
      s.phase.bits.toNat * 2 ^ 28 + s.bitcnt.toNat * 2 ^ 24 + s.idx.toNat * 2 ^ 16 + s.errCode.toNat * 2 ^ 8 +
        s.irq.toNat * 2 ^ 4 + s.err.toNat * 2 ^ 3 + s.done.toNat * 2 ^ 2 + s.valid.toNat * 2 + s.busy.toNat := by
  simp only [State.statusWord, toNat_append_eq_add, BitVec.toNat_ofBool, BitVec.toNat_ofNat]
  omega

theorem busy_eq_decide (s : State) : s.busy = decide (s.phase ≠ .idle) := by
  cases h : s.phase <;> simp [State.busy, h]

/-- Settles O36: the four words in arithmetic; PHASE's two bits are its number in each phase (R35). -/
theorem registerFormats : Obligations.RegisterFormats := by
  intro s phase
  have hphase : s.phase.bits.toNat = phase := by
    cases hp : s.phase <;> simp [phase, hp, Phase.bits]
  refine ⟨rfl, rfl, rfl, rfl, idWord_toNat s.wMax, cfgWord_toNat s.pending, ?_, irqEnWord_toNat s⟩
  rw [statusWord_toNat, hphase, busy_eq_decide]

end Sys2Proof.Machine
end

section
/-! Who writes DONE (R41): the sequencer's last STORE, then the command of the cycle (O44). -/

namespace Sys2Proof.Machine

/-! ## The command an event issues, from what it writes to CMD (R213) -/

theorem issuedCommand_eq_some {e : HostEvent} {w : Word} {i : Instr} (hw : writtenCommand e = some w)
    (hd : decode w = .command i) : issuedCommand e = some i := by
  simp [issuedCommand, hw, hd]

theorem issuedCommand_eq_none_of_illegal {e : HostEvent} {w : Word} {why : Illegal} (hw : writtenCommand e = some w)
    (hd : decode w = .illegal why) : issuedCommand e = none := by
  simp [issuedCommand, hw, hd]

theorem issuedCommand_eq_none_of_unwritten {e : HostEvent} (hw : writtenCommand e = none) : issuedCommand e = none := by
  simp [issuedCommand, hw]

/-! ## DONE -/

/-- The cycle's STORE is of entry 255 (R153). -/
def StoresLastEntry (s : State) : Prop := s.phase = .store ∧ s.idx = 255

/-- The command clears DONE: ACK, or a GENERATE that is accepted (R211, R143). -/
def ClearsDone (c : Option Instr) (s : State) : Prop :=
  c = some .ack ∨ c = some .generate ∧ s.phase = .idle ∧ checkConfig s.wMax s.pending = none

theorem not_clearsDone_none (s : State) : ¬ ClearsDone none s := by simp [ClearsDone]

theorem sequencerStep_done_of_last {s : State} (h : StoresLastEntry s) : (sequencerStep s).done = true := by
  obtain ⟨hp, hi⟩ := h
  simp [sequencerStep, hp, seqStore, hi]

theorem seqStore_done_of_ne_last {s : State} (h : s.idx ≠ 255) : (seqStore s).done = s.done := by
  rw [seqStore, if_neg h]
  rfl

theorem sequencerStep_done_of_not_last {s : State} (h : ¬ StoresLastEntry s) : (sequencerStep s).done = s.done := by
  unfold sequencerStep
  split
  case h_1 => rfl
  case h_2 => rfl
  case h_3 => rfl
  case h_4 hp => exact seqStore_done_of_ne_last fun hi => h ⟨hp, hi⟩

theorem raises_done {s t : State} (h : Raises s t) : t.done = s.done := by
  obtain ⟨c, -, -, rfl⟩ := h
  rfl

theorem exec_done_of_clears {i : Instr} {s t : State} (hx : exec i s = .next t) (hc : ClearsDone (some i) s) :
    t.done = false := by
  obtain hack | ⟨hgen, hp, hok⟩ := hc
  · cases hack
    rw [execAck_cases hx, acknowledge_done]
  · cases hgen
    obtain ⟨hbusy | hbad, -⟩ | ⟨-, -, rfl⟩ := execGenerate_cases hx
    · exact absurd hp hbusy
    · exact absurd hok hbad
    · rfl

theorem exec_done_of_not_clears {i : Instr} {s t : State} (hx : exec i s = .next t) (hc : ¬ ClearsDone (some i) s) :
    t.done = s.done := by
  cases i with
  | nop => rw [execNop_cases hx]
  | generate =>
    obtain ⟨-, hr⟩ | ⟨hp, hok, -⟩ := execGenerate_cases hx
    · exact raises_done hr
    · exact absurd (.inr ⟨rfl, hp, hok⟩) hc
  | abort => obtain ⟨-, rfl⟩ | ⟨-, rfl⟩ := execAbort_cases hx <;> rfl
  | ack => exact absurd (.inl rfl) hc
  | crcInit =>
    obtain ⟨-, hr⟩ | ⟨-, -, rfl⟩ := execCrcInit_cases hx
    · exact raises_done hr
    · rfl
  | crcUpdate b =>
    obtain ⟨-, hr⟩ | ⟨-, -, rfl⟩ := execCrcUpdate_cases hx
    · exact raises_done hr
    · rfl
  | crcFinal =>
    obtain ⟨-, hr⟩ | ⟨-, -, rfl⟩ := execCrcFinal_cases hx
    · exact raises_done hr
    · rfl

/-- What a cycle does to DONE after the sequencer's step: a command of its access may clear it, nothing else writes it. -/
theorem cycle_done {req : Option Access} {s t : State} (h : cycleWith exec req s = .next t) :
    (ClearsDone (issuedCommand (.cycle req)) (sequencerStep s) ∧ t.done = false) ∨
      (¬ ClearsDone (issuedCommand (.cycle req)) (sequencerStep s) ∧ t.done = (sequencerStep s).done) := by
  obtain ⟨rfl, rfl⟩ | ⟨r, rfl, hw⟩ | ⟨r, v, -, -, rfl, hw⟩ | ⟨w, i, u, hw, hd, hx, rfl⟩ | ⟨w, why, hw, hd, rfl⟩ :=
    cycle_cases h
  · exact .inr ⟨not_clearsDone_none _, rfl⟩
  · rw [issuedCommand_eq_none_of_unwritten hw]
    exact .inr ⟨not_clearsDone_none _, rfl⟩
  · rw [issuedCommand_eq_none_of_unwritten hw]
    exact .inr ⟨not_clearsDone_none _, by simp⟩
  · rw [issuedCommand_eq_some hw hd, respond_done]
    by_cases hc : ClearsDone (some i) (sequencerStep s)
    · exact .inl ⟨hc, exec_done_of_clears hx hc⟩
    · exact .inr ⟨hc, exec_done_of_not_clears hx hc⟩
  · rw [issuedCommand_eq_none_of_illegal hw hd]
    exact .inr ⟨not_clearsDone_none _, rfl⟩

/-- The sequencer's step leaves W_MAX and the pending configuration, which GENERATE checks. -/
theorem clearsDone_afterSequencer (c : Option Instr) (s : State) :
    ClearsDone c (afterSequencer s) ↔ c = some .ack ∨
      c = some .generate ∧ (afterSequencer s).phase = .idle ∧ checkConfig s.wMax s.pending = none := by
  simp [ClearsDone, afterSequencer]

/-- Settles O44, by the event of the step: reset clears DONE, a stopped clock leaves it, a cycle is `cycle_done` after the
sequencer's step. -/
theorem onlyTheLastStoreSetsDone : Obligations.OnlyTheLastStoreSetsDone := by
  intro s t _ hs ht e accepted
  obtain ⟨req, he, rfl⟩ | ⟨req, -, rfl⟩ | ⟨-, he, rfl⟩ | ⟨req, -, he, hc⟩ := step_cases hs
  · exact ⟨fun _ => rfl, fun hno => absurd (.inl ⟨req, he⟩) hno⟩
  · simp at ht
  · have hissued : issuedCommand e = none := by simp only [e, he]; rfl
    constructor
    · rintro (⟨req, hr⟩ | hack | ⟨hgen, -⟩)
      · exact nomatch he.symm.trans hr
      · exact nomatch hissued.symm.trans hack
      · exact nomatch hissued.symm.trans hgen
    · exact fun _ => ⟨fun ⟨⟨req, hr⟩, _⟩ => (nomatch he.symm.trans hr), fun _ => rfl⟩
  · have hclears : ClearsDone (issuedCommand e) (afterSequencer s) ↔ issuedCommand e = some .ack ∨ accepted :=
      clearsDone_afterSequencer _ s
    have hdone := cycle_done hc
    rw [← he] at hdone
    obtain ⟨hclear, hd⟩ | ⟨hkeep, hd⟩ := hdone
    · exact ⟨fun _ => hd, fun hno => absurd (.inr (hclears.1 hclear)) hno⟩
    · constructor
      · rintro (⟨req, hr⟩ | hcmd)
        · exact nomatch he.symm.trans hr
        · exact absurd (hclears.2 hcmd) hkeep
      · exact fun _ =>
          ⟨fun ⟨_, hlast⟩ => hd.trans (sequencerStep_done_of_last hlast),
            fun hno => hd.trans (sequencerStep_done_of_not_last fun hlast => hno ⟨⟨req, he⟩, hlast⟩)⟩

end Sys2Proof.Machine
end

section
/-! The values after reset (O50). -/

namespace Sys2Proof.Machine

/-- Settles O50: the reset state is written out in the model (R44). -/
theorem resetValues : Obligations.ResetValues :=
  ⟨rfl, rfl, rfl, rfl, rfl, rfl, rfl, rfl, rfl, rfl, rfl, rfl, rfl, rfl, rfl⟩

end Sys2Proof.Machine
end

section
/-! The admission of an access (R62, R63) and the answer to one that is not admitted (O37). -/

namespace Sys2Proof.Machine

/-- The three lowest bits of an offset are 0 exactly where it is a multiple of 8 (R63). -/
theorem aligned_iff {a : BitVec 12} : aligned a = true ↔ a.toNat % 8 = 0 := by
  simp [aligned, ← BitVec.toNat_inj]

theorem admitted_iff {a : BitVec 12} {n : BitVec 4} : admitted a n = true ↔ n = 8 ∧ a.toNat % 8 = 0 := by
  simp [admitted, aligned_iff]

theorem admitted_eq_false_iff {a : BitVec 12} {n : BitVec 4} : admitted a n = false ↔ n ≠ 8 ∨ a.toNat % 8 ≠ 0 := by
  rw [← Bool.not_eq_true, admitted_iff, not_and_or]

theorem memRead_of_not_admitted {a : BitVec 12} {n : BitVec 4} (h : admitted a n = false) (s : State) :
    memRead a n s = .refused := by
  simp [memRead, h]

theorem writeRoute_of_not_admitted {a : BitVec 12} {n : BitVec 4} (h : admitted a n = false) :
    writeRoute a n = .refuse .refused := by
  simp [writeRoute, h]

/-- A host read is its answer and nothing else (R66). -/
theorem accessWith_read (run : Instr → State → Result State) {a : Access} (h : a.write = false) (s : State) :
    accessWith run a s = .next (respond (memRead a.addr a.size s) s) := by
  simp [accessWith, h]

/-- A host write whose route is a refusal is its answer and nothing else (R62 to R65). -/
theorem accessWith_refused_write (run : Instr → State → Result State) {a : Access} {r : Response}
    (hw : a.write = true) (hr : writeRoute a.addr a.size = .refuse r) (s : State) :
    accessWith run a s = .next (respond r s) := by
  simp [accessWith, hw, memWriteWith, hr]

theorem accessWith_of_not_admitted (run : Instr → State → Result State) {a : Access}
    (h : admitted a.addr a.size = false) (s : State) : accessWith run a s = .next (respond .refused s) := by
  cases hw : a.write with
  | false => rw [accessWith_read run hw, memRead_of_not_admitted h]
  | true => exact accessWith_refused_write run hw (writeRoute_of_not_admitted h) s

/-- With power on, a cycle that presents an access processes it against the state the sequencer left (R275). -/
theorem step_of_access {s : State} {a : Access} (hpow : s.powerLost = false)
    (he : nextEvent s = .cycle (some a)) : step s = accessWith exec a (afterSequencer s) := by
  simp [step_eq, he, eventWith, hpow, cycleWith, afterSequencer]

/-- Settles O37: an access that is not admitted is refused, whether it reads or writes. -/
theorem narrowAndMisalignedAccessesAreRefused : Obligations.NarrowAndMisalignedAccessesAreRefused := by
  intro s a hpow he hbad
  rw [step_of_access hpow he]
  exact accessWith_of_not_admitted exec (admitted_eq_false_iff.2 hbad) _

end Sys2Proof.Machine
end

section
/-! The divider (R120 to R127): division step and reversal in arithmetic (O5, O7), reversal undone by reversal (O8), and the
linearity over GF(2) of division step, reversal and table entries (O9). -/

namespace Sys2Proof.Machine

/-! ## The division step in arithmetic -/

theorem toNat_topBitMask {W : Nat} (hW : 1 ≤ W) (hW' : W ≤ 64) : (topBitMask W).toNat = 2 ^ (W - 1) := by
  have hlt : 2 ^ (W - 1) < 2 ^ 64 := Nat.pow_lt_pow_right (by decide) (by omega)
  rw [topBitMask, BitVec.toNat_shiftLeft, BitVec.toNat_ofNat, Nat.one_mod_two_pow (by decide), Nat.one_shiftLeft,
    Nat.mod_eq_of_lt hlt]

theorem toNat_widthMask {W : Nat} (hW : W ≤ 64) : (widthMask W).toNat = 2 ^ W - 1 := by
  have hle : 2 ^ W ≤ 2 ^ 64 := Nat.pow_le_pow_right (by decide) hW
  have hpos : 0 < 2 ^ W := Nat.two_pow_pos W
  rw [widthMask, BitVec.toNat_ofNat, Nat.mod_eq_of_lt (by omega)]

/-- Shifting within the 64-bit word loses no bit that the mask keeps. -/
theorem toNat_shiftLeft_and_widthMask {W : Nat} (hW : W ≤ 64) (r : Word) :
    ((r <<< 1) &&& widthMask W).toNat = 2 * r.toNat % 2 ^ W := by
  rw [toNat_and_widthMask hW, BitVec.toNat_shiftLeft, Nat.shiftLeft_eq, pow_one, mul_comm,
    Nat.mod_mod_of_dvd _ (Nat.pow_dvd_pow 2 hW)]

theorem toNat_divisionStep {W : Nat} (hW : 1 ≤ W) (hW' : W ≤ 64) (r P : Word) :
    (divisionStep r P W).toNat = (2 * r.toNat % 2 ^ W) ^^^ (if r.toNat.testBit (W - 1) then P.toNat else 0) := by
  have hshift := toNat_shiftLeft_and_widthMask hW' r
  have htop := and_topBitMask_ne_zero hW hW' r
  rw [BitVec.getLsbD] at htop
  by_cases h : r.toNat.testBit (W - 1) = true
  · simp only [divisionStep, if_pos (htop.2 h), if_pos h, BitVec.toNat_xor, hshift]
  · simp only [divisionStep, if_neg (mt htop.1 h), if_neg h, hshift, Nat.xor_zero]

/-- Masking before or after the XOR makes no difference: P fits in W bits. -/
theorem toNat_divisionStep_mod {W : Nat} (hW : 1 ≤ W) (hW' : W ≤ 64) (r : Word) {P : Word} (hP : P.toNat < 2 ^ W) :
    (divisionStep r P W).toNat = ((2 * r.toNat) ^^^ (if r.toNat.testBit (W - 1) then P.toNat else 0)) % 2 ^ W := by
  rw [toNat_divisionStep hW hW', Nat.xor_mod_two_pow]
  congr 1
  split
  · exact (Nat.mod_eq_of_lt hP).symm
  · exact (Nat.zero_mod _).symm

theorem divisionStep_zero (P : Word) (W : Nat) : divisionStep 0 P W = 0 := by simp [divisionStep]

/-- The top bit is shifted out, and P is all that is left. -/
theorem divisionStep_topBitMask {W : Nat} (hW : 1 ≤ W) (hW' : W ≤ 64) (P : Word) :
    divisionStep (topBitMask W) P W = P := by
  have htop : (2 ^ (W - 1)).testBit (W - 1) = true := by rw [Nat.testBit_two_pow_self]
  have hout : 2 * 2 ^ (W - 1) = 2 ^ W := mul_pow_sub_one (by omega) 2
  apply BitVec.eq_of_toNat_eq
  rw [toNat_divisionStep hW hW', toNat_topBitMask hW hW', if_pos htop, hout, Nat.mod_self, Nat.zero_xor]

/-- Settles O5: the step in arithmetic, its masks, its corner cases and the examples. -/
theorem divisionStepIsOneBitOfDivision : Obligations.DivisionStepIsOneBitOfDivision := by
  refine ⟨fun W r P hW hW' _ hP => ?_, by decide, by decide⟩
  have hzero : (divisionStep r 0 W).toNat = 2 * r.toNat % 2 ^ W := by simp [toNat_divisionStep hW hW']
  exact ⟨toNat_divisionStep hW hW' r P, toNat_divisionStep_mod hW hW' r hP, divisionStep_lt hW' hP,
    toNat_topBitMask hW hW', toNat_widthMask hW', divisionStep_zero P W, hzero, divisionStep_topBitMask hW hW' P⟩

/-! ## Reversal -/

/-- One step of the reversal: bit 0 goes to the top place, where the reversal of the other bits has nothing. -/
theorem toNat_rev_succ {n : Nat} (hn : n + 1 ≤ 64) (v : Word) :
    (rev (n + 1) v).toNat = (if v.getLsbD 0 then 1 else 0) * 2 ^ n + (rev n (v >>> 1)).toNat := by
  have hlow : (rev n (v >>> 1)).toNat < 2 ^ n := rev_lt (by omega) _
  have hbit : (v &&& 1#64).toNat = if v.getLsbD 0 then 1 else 0 := by
    rw [BitVec.and_one_eq_setWidth_ofBool_getLsbD]
    cases v.getLsbD 0 <;> rfl
  have hfits : (v &&& 1#64).toNat <<< n < 2 ^ 64 := by
    have : 2 ^ n < 2 ^ 64 := Nat.pow_lt_pow_right (by decide) hn
    rw [hbit, Nat.shiftLeft_eq]
    split <;> omega
  rw [rev, BitVec.toNat_or, BitVec.toNat_shiftLeft, Nat.mod_eq_of_lt hfits, ← Nat.shiftLeft_add_eq_or_of_lt hlow, hbit,
    Nat.shiftLeft_eq]

theorem toNat_rev_eq_sum {n : Nat} (hn : n ≤ 64) (v : Word) :
    (rev n v).toNat = ∑ i ∈ Finset.range n, (if v.getLsbD i then 1 else 0) * 2 ^ (n - 1 - i) := by
  induction n generalizing v with
  | zero => rfl
  | succ n ih =>
    rw [toNat_rev_succ hn, ih (by omega), Finset.sum_range_succ', add_comm]
    congr 1
    refine Finset.sum_congr rfl fun i _ => ?_
    rw [BitVec.getLsbD_ushiftRight, add_comm 1 i, show n + 1 - 1 - (i + 1) = n - 1 - i by omega]

theorem rev_getLsbD_mirror {n i : Nat} (hn : n ≤ 64) (hi : i < n) (v : Word) :
    (rev n v).getLsbD (n - 1 - i) = v.getLsbD i := by
  have hlt : n - 1 - i < n := by omega
  rw [rev_getLsbD hn, decide_eq_true hlt, Bool.true_and, show n - 1 - (n - 1 - i) = i by omega]

/-- Settles O7: the sum of the moved bits, one bit, the bound and the examples. -/
theorem reversalMovesBitIToBitNMinusOneMinusI : Obligations.ReversalMovesBitIToBitNMinusOneMinusI :=
  ⟨fun _ v hn => ⟨toNat_rev_eq_sum hn v, fun _ hi => rev_getLsbD_mirror hn hi v, rev_lt hn v⟩, by decide, by decide,
    by decide, by decide⟩

theorem rev_rev {n : Nat} (hn : n ≤ 64) {v : Word} (hv : v.toNat < 2 ^ n) : rev n (rev n v) = v := by
  apply BitVec.eq_of_getLsbD_eq
  intro j _
  rw [rev_getLsbD hn]
  by_cases hj : j < n
  · rw [decide_eq_true hj, Bool.true_and, rev_getLsbD_mirror hn hj]
  · rw [decide_eq_false hj, Bool.false_and, (toNat_lt_iff_getLsbD n v).1 hv j (by omega)]

theorem revByte_revByte (b : Byte) : revByte (revByte b) = b := by
  apply BitVec.eq_of_getLsbD_eq
  intro j hj
  have hmirror : 7 - j < 8 := by omega
  rw [revByte_getLsbD, revByte_getLsbD, decide_eq_true hj, decide_eq_true hmirror, show 7 - (7 - j) = j by omega,
    Bool.true_and, Bool.true_and]

/-- Settles O8: a bit mirrored twice is in its old place. -/
theorem reversalIsAnInvolution : Obligations.ReversalIsAnInvolution :=
  ⟨fun _ _ hn hv => rev_rev hn hv, revByte_revByte⟩

/-! ## Linearity over GF(2): each bit of the results is an XOR of bits of the arguments -/

theorem divisionStep_xor {W : Nat} (hW : 1 ≤ W) (hW' : W ≤ 64) (a b P : Word) :
    divisionStep (a ^^^ b) P W = divisionStep a P W ^^^ divisionStep b P W := by
  apply BitVec.eq_of_getLsbD_eq
  intro j _
  simp only [BitVec.getLsbD_xor, divisionStep_getLsbD hW hW', Bool.and_xor_distrib_left, Bool.and_xor_distrib_right,
    Bool.xor_assoc, Bool.xor_left_comm]

theorem divisionSteps_xor {W : Nat} (hW : 1 ≤ W) (hW' : W ≤ 64) (n : Nat) (a b P : Word) :
    divisionSteps n (a ^^^ b) P W = divisionSteps n a P W ^^^ divisionSteps n b P W := by
  induction n with
  | zero => rfl
  | succ n ih => rw [divisionSteps, ih, divisionStep_xor hW hW', divisionSteps, divisionSteps]

theorem rev_xor {n : Nat} (hn : n ≤ 64) (a b : Word) : rev n (a ^^^ b) = rev n a ^^^ rev n b := by
  apply BitVec.eq_of_getLsbD_eq
  intro j _
  simp only [BitVec.getLsbD_xor, rev_getLsbD hn, Bool.and_xor_distrib_left]

theorem reflectWord_xor {W : Nat} (hW : W ≤ 64) (flag : Bool) (a b : Word) :
    reflectWord flag W (a ^^^ b) = reflectWord flag W a ^^^ reflectWord flag W b := by
  cases flag with
  | false => rfl
  | true => exact rev_xor hW a b

theorem revByte_xor (a b : Byte) : revByte (a ^^^ b) = revByte a ^^^ revByte b := by
  rw [revByte, BitVec.setWidth_xor, rev_xor (by decide), BitVec.setWidth_xor, revByte, revByte]

theorem reflectByte_xor (flag : Bool) (a b : Byte) :
    reflectByte flag (a ^^^ b) = reflectByte flag a ^^^ reflectByte flag b := by
  cases flag with
  | false => rfl
  | true => exact revByte_xor a b

theorem placeByte_xor {W : Nat} (hW : 8 ≤ W) (hW' : W ≤ 64) (a b : Byte) :
    placeByte (a ^^^ b) W = placeByte a W ^^^ placeByte b W := by
  apply BitVec.eq_of_getLsbD_eq
  intro j _
  simp only [BitVec.getLsbD_xor, placeByte_getLsbD hW hW', Bool.and_xor_distrib_left]

/-- An entry is a chain of linear maps of its byte. -/
theorem entry_xor {m : WMax} {C : CrcConfig} (hC : C.Valid m) (a b : Byte) :
    entry (a ^^^ b) C = entry a C ^^^ entry b C := by
  have hW' := hC.width_le
  obtain ⟨⟨-, hW, -⟩, -⟩ := hC
  simp only [entry]
  rw [reflectByte_xor, placeByte_xor hW hW', divisionSteps_xor (by omega) hW', reflectWord_xor hW']

/-- What is linear is 0 at 0. -/
theorem map_zero_of_map_xor {f : Byte → Word} (hxor : ∀ a b, f (a ^^^ b) = f a ^^^ f b) : f 0 = 0 := by
  have h := hxor 0 0
  rwa [BitVec.xor_self, BitVec.xor_self] at h

theorem entry_zero {m : WMax} {C : CrcConfig} (hC : C.Valid m) : entry 0 C = 0 :=
  map_zero_of_map_xor (f := (entry · C)) (entry_xor hC)

/-- The lowest k+1 bits of a byte: its lowest k bits, and the one-bit byte 2^k where bit k is set. -/
theorem setWidth_setWidth_succ_eq_ite (d : Byte) (k : Nat) :
    (d.setWidth (k + 1)).setWidth 8 =
      if d.getLsbD k then (d.setWidth k).setWidth 8 ^^^ BitVec.ofNat 8 (2 ^ k) else (d.setWidth k).setWidth 8 := by
  apply BitVec.eq_of_getLsbD_eq
  intro j hj
  rw [apply_ite (BitVec.getLsbD · j)]
  simp only [BitVec.getLsbD_xor, BitVec.getLsbD_setWidth, BitVec.getLsbD_ofNat, Nat.testBit_two_pow, decide_eq_true hj,
    Bool.true_and]
  rcases Nat.lt_trichotomy j k with h | rfl | h
  · simp [h, h.ne', show j < k + 1 by omega]
  · simp
  · simp [show ¬ j < k by omega, show ¬ k = j by omega, show ¬ j < k + 1 by omega]

/-- What is linear is the XOR of its values on the one-bit bytes of its argument, taken bit by bit. -/
theorem foldl_oneBitBytes {f : Byte → Word} (hxor : ∀ a b, f (a ^^^ b) = f a ^^^ f b) (d : Byte) (n : Nat) :
    (List.range n).foldl (fun acc k => if d.getLsbD k then acc ^^^ f (BitVec.ofNat 8 (2 ^ k)) else acc) 0 =
      f ((d.setWidth n).setWidth 8) := by
  induction n with
  | zero =>
    have hnone : (d.setWidth 0).setWidth 8 = 0 := by rw [BitVec.of_length_zero (x := d.setWidth 0)]; rfl
    rw [hnone, map_zero_of_map_xor hxor]
    rfl
  | succ n ih =>
    rw [List.range_succ, List.foldl_append, ih, setWidth_setWidth_succ_eq_ite]
    simp only [List.foldl_cons, List.foldl_nil]
    split
    · rw [hxor]
    · rfl

/-- Settles O9: every bit of division step and reversal is linear, so are the entries, and a linear function is fixed by
its values on the one-bit bytes. -/
theorem divisionAndEntriesAreLinear : Obligations.DivisionAndEntriesAreLinear := by
  refine ⟨fun _ a b P hW hW' => divisionStep_xor hW hW' a b P, fun _ a b hn => rev_xor hn a b, fun m C hC => ?_⟩
  refine ⟨entry_xor hC, entry_zero hC, fun d => ?_⟩
  have h := foldl_oneBitBytes (f := (entry · C)) (entry_xor hC) d 8
  rw [BitVec.setWidth_eq, BitVec.setWidth_eq] at h
  exact h.symm

end Sys2Proof.Machine
end

section
/-! The checks of GENERATE in their order (R142), and what GENERATE answers: accepted (R143) or refused (R144) (O13, O14,
O15). -/

namespace Sys2Proof.Machine

/-- The first check is the negation of "supported" (R5). -/
theorem not_supported_iff {m : WMax} {W : Nat} : ¬ Supported m W ↔ W % 8 ≠ 0 ∨ W < 8 ∨ m.bits < W := by
  rw [not_and_or, not_and_or, not_le, not_le]

/-- The five answers of the checks: the first one that fails, or none (R142). -/
theorem checkConfig_cases (m : WMax) (C : CrcConfig) :
    (¬ Supported m C.width.toNat ∧ checkConfig m C = some .cfgWidth) ∨
    (Supported m C.width.toNat ∧ 2 ^ C.width.toNat ≤ C.polynomial.toNat ∧ checkConfig m C = some .cfgPoly) ∨
    (Supported m C.width.toNat ∧ C.polynomial.toNat < 2 ^ C.width.toNat ∧
      2 ^ C.width.toNat ≤ C.initialRemainder.toNat ∧ checkConfig m C = some .cfgInit) ∨
    (Supported m C.width.toNat ∧ C.polynomial.toNat < 2 ^ C.width.toNat ∧
      C.initialRemainder.toNat < 2 ^ C.width.toNat ∧ 2 ^ C.width.toNat ≤ C.finalXor.toNat ∧
      checkConfig m C = some .cfgXorout) ∨
    (C.Valid m ∧ checkConfig m C = none) := by
  unfold checkConfig
  simp only [← not_supported_iff]
  by_cases hW : Supported m C.width.toNat
  · rw [if_neg (not_not_intro hW)]
    split_ifs with hP hI hX
    · exact .inr (.inl ⟨hW, hP, rfl⟩)
    · exact .inr (.inr (.inl ⟨hW, not_le.1 hP, hI, rfl⟩))
    · exact .inr (.inr (.inr (.inl ⟨hW, not_le.1 hP, not_le.1 hI, hX, rfl⟩)))
    · exact .inr (.inr (.inr (.inr ⟨⟨hW, not_le.1 hP, not_le.1 hI, not_le.1 hX⟩, rfl⟩)))
  · exact .inl ⟨hW, if_pos hW⟩

/-- A valid configuration passes every check: the converse of `valid_of_checkConfig`. -/
theorem checkConfig_of_valid {m : WMax} {C : CrcConfig} (h : C.Valid m) : checkConfig m C = none := by
  obtain ⟨hW, hP, hI, hX⟩ := h
  obtain ⟨hbad, -⟩ | ⟨-, hbad, -⟩ | ⟨-, -, hbad, -⟩ | ⟨-, -, -, hbad, -⟩ | ⟨-, hc⟩ := checkConfig_cases m C
  · exact absurd hW hbad
  · exact absurd hP hbad.not_gt
  · exact absurd hI hbad.not_gt
  · exact absurd hX hbad.not_gt
  · exact hc

theorem checkConfig_eq_none_iff {m : WMax} {C : CrcConfig} : checkConfig m C = none ↔ C.Valid m :=
  ⟨valid_of_checkConfig, checkConfig_of_valid⟩

/-- Where W = 64 is supported every 64-bit value is in range (R142). -/
theorem valid_of_width_64 {m : WMax} {C : CrcConfig} (hC : C.width = 64) (h : Supported m 64) : C.Valid m := by
  have hW : C.width.toNat = 64 := by rw [hC]; rfl
  rw [CrcConfig.Valid, hW]
  exact ⟨h, C.polynomial.isLt, C.initialRemainder.isLt, C.finalXor.isLt⟩

/-- Settles O13, by the five answers of the checks, whose conditions exclude each other. -/
theorem configurationChecksInOrder : Obligations.ConfigurationChecksInOrder := by
  intro m C
  refine ⟨?_, ?_, ?_, ?_, checkConfig_eq_none_iff, rfl, rfl, rfl, rfl,
    fun hC h => checkConfig_of_valid (valid_of_width_64 hC h)⟩
  all_goals
    obtain ⟨hW, hc⟩ | ⟨hW, hP, hc⟩ | ⟨hW, hP, hI, hc⟩ | ⟨hW, hP, hI, hX, hc⟩ | ⟨⟨hW, hP, hI, hX⟩, hc⟩ :=
      checkConfig_cases m C
    · simp [hc, hW]
    · simp [hc, eq_true hW, hP]
    · simp [hc, eq_true hW, hP, hI]
    · simp [hc, eq_true hW, hP, hI, hX]
    · simp [hc, hP, hI, hX, hW]

/-! ## GENERATE -/

theorem exec_generate_of_busy {s : State} (hbusy : s.phase ≠ .idle) :
    exec .generate s = .next (raiseError .busy s) := by
  simp [exec, execGenerate, (busy_eq_true s).2 hbusy]

theorem exec_generate_of_failed_check {s : State} {e : ErrCode} (hidle : s.phase = .idle)
    (hc : checkConfig s.wMax s.pending = some e) : exec .generate s = .next (raiseError e s) := by
  simp [exec, execGenerate, (busy_eq_false s).2 hidle, hc]

theorem exec_generate_of_valid {s : State} (hidle : s.phase = .idle) (hC : s.pending.Valid s.wMax) :
    exec .generate s = .next (acceptGenerate s) := by
  simp [exec, execGenerate, (busy_eq_false s).2 hidle, checkConfig_of_valid hC]

/-- Settles O14: no check fails, so the answer is `acceptGenerate`. -/
theorem generateIsAccepted : Obligations.GenerateIsAccepted := fun _ => exec_generate_of_valid

/-- Settles O15: BUSY comes first, then the answer of the checks. -/
theorem generateIsRefused : Obligations.GenerateIsRefused := by
  refine fun s => ⟨exec_generate_of_busy, ?_⟩
  intro hidle hbad W code
  have hcheck : ∃ e, checkConfig s.wMax s.pending = some e ∧ e.code = code := by
    obtain ⟨hW, hc⟩ | ⟨hW, hP, hc⟩ | ⟨hW, hP, hI, hc⟩ | ⟨hW, hP, hI, -, hc⟩ | ⟨hC, -⟩ :=
      checkConfig_cases s.wMax s.pending
    · exact ⟨_, hc, (if_pos hW).symm⟩
    · exact ⟨_, hc, by simp [code, W, hW, hP, ErrCode.code]⟩
    · exact ⟨_, hc, by simp [code, W, hW, hP.not_ge, hI, ErrCode.code]⟩
    · exact ⟨_, hc, by simp [code, W, hW, hP.not_ge, hI.not_ge, ErrCode.code]⟩
    · exact absurd hC hbad
  obtain ⟨e, hc, hcode⟩ := hcheck
  rw [← hcode]
  exact exec_generate_of_failed_check hidle hc

end Sys2Proof.Machine
end

section
/-! One sequencer step by its phase (O17) and what it does not read (O18); it keeps `Built` and is one of the 2560 steps of a
generation, which therefore ends with the whole table (O19). -/

namespace Sys2Proof.Machine

theorem sequencerStep_of_idle {s : State} (h : s.phase = .idle) : sequencerStep s = s := by simp [sequencerStep, h]

theorem sequencerStep_of_load {s : State} (h : s.phase = .load) : sequencerStep s = seqLoad s := by
  simp [sequencerStep, h]

theorem sequencerStep_of_step {s : State} (h : s.phase = .step) : sequencerStep s = seqDivide s := by
  simp [sequencerStep, h]

/-- STORE of an entry before the last goes on with the next entry (R153). -/
theorem sequencerStep_of_store_ne_last {s : State} (hp : s.phase = .store) (hi : s.idx ≠ 255) :
    sequencerStep s = { s.tableWrite s.idx (reflectWord s.act.reflectOutput s.act.width.toNat s.rem) with
      idx := s.idx + 1, phase := .load } := by
  simp only [sequencerStep, hp, seqStore, if_neg hi]

/-- STORE of the last entry completes the table (R153). -/
theorem sequencerStep_of_store_last {s : State} (hp : s.phase = .store) (hi : s.idx = 255) :
    sequencerStep s = { s.tableWrite s.idx (reflectWord s.act.reflectOutput s.act.width.toNat s.rem) with
      phase := .idle, valid := true, done := true } := by
  simp only [sequencerStep, hp, seqStore, if_pos hi]

/-- Settles O17: the phase selects the sequencer's operation, and IDX the form of STORE. -/
theorem sequencerStepsByPhase : Obligations.SequencerStepsByPhase := fun _ =>
  ⟨sequencerStep_of_idle, sequencerStep_of_load, sequencerStep_of_step,
    sequencerStep_of_store_ne_last, sequencerStep_of_store_last⟩

/-- Settles O18, phase by phase: the registers replaced occur in none of the four steps. -/
theorem sequencerReadsNoInitialRemainderNorPending : Obligations.SequencerReadsNoInitialRemainderNorPending := by
  intro s p a x
  have hcases : s.phase = .idle ∨ s.phase = .load ∨ s.phase = .step ∨ s.phase = .store := by
    cases s.phase <;> simp
  obtain hp | hp | hp | hp := hcases
  · rw [sequencerStep_of_idle (s := s) hp]
    exact sequencerStep_of_idle hp
  · rw [sequencerStep_of_load (s := s) hp]
    exact sequencerStep_of_load hp
  · rw [sequencerStep_of_step (s := s) hp]
    exact sequencerStep_of_step hp
  · by_cases hi : s.idx = 255
    · rw [sequencerStep_of_store_last (s := s) hp hi]
      exact sequencerStep_of_store_last hp hi
    · rw [sequencerStep_of_store_ne_last (s := s) hp hi]
      exact sequencerStep_of_store_ne_last hp hi

/-! ## The sequencer keeps `Built` -/

theorem built_acceptGenerate (s : State) : Built (acceptGenerate s) where
  whole hv := nomatch hv
  below _ := ⟨rfl, fun _ hd => absurd hd (Nat.not_lt_zero _)⟩
  dividing hp := nomatch hp
  divided hp := nomatch hp

theorem built_seqLoad {s : State} (h : Built s) (hp : s.phase = .load) : Built (seqLoad s) := by
  obtain ⟨hvalid, hbelow⟩ := h.below (by simp [hp])
  exact
    { whole := fun hv => nomatch hvalid.symm.trans hv
      below := fun _ => ⟨hvalid, hbelow⟩
      dividing := fun _ => ⟨Nat.zero_lt_succ 7, rfl⟩
      divided := fun hs => nomatch hs }

/-- The next division step of the remainder that REM holds (R151). -/
theorem seqDivide_rem_eq_remainderAfter {s : State} {n : Nat} (hrem : s.rem = remainderAfter n s) :
    (seqDivide s).rem = remainderAfter (n + 1) (seqDivide s) := by
  rw [seqDivide_rem, hrem]
  rfl

/-- BITCNT counts up to 8 without wrapping. -/
theorem seqDivide_bitcnt_toNat {s : State} (h : s.bitcnt.toNat < 8) :
    (seqDivide s).bitcnt.toNat = s.bitcnt.toNat + 1 := by
  rw [seqDivide_bitcnt]
  bv_omega

/-- The eighth division step of an entry leads to STORE (R151). -/
theorem seqDivide_phase_eq_ite {s : State} (h : s.bitcnt.toNat < 8) :
    (seqDivide s).phase = if s.bitcnt.toNat = 7 then .store else .step := by
  have hlast : s.bitcnt + 1 = 8 ↔ s.bitcnt.toNat = 7 := by bv_omega
  simp only [seqDivide_phase, hlast]

theorem built_seqDivide {s : State} (h : Built s) (hp : s.phase = .step) : Built (seqDivide s) := by
  obtain ⟨hvalid, hbelow⟩ := h.below (by simp [hp])
  obtain ⟨hcount, hrem⟩ := h.dividing hp
  have hrem' := seqDivide_rem_eq_remainderAfter hrem
  have hcount' := seqDivide_bitcnt_toNat hcount
  have hphase := seqDivide_phase_eq_ite hcount
  rw [← hcount'] at hrem'
  refine ⟨fun hv => (nomatch hvalid.symm.trans hv), fun _ => ⟨hvalid, hbelow⟩, fun hstep => ⟨?_, hrem'⟩, fun hstore => ?_⟩
  · have hne : s.bitcnt.toNat ≠ 7 := fun h7 => by rw [hphase, if_pos h7] at hstep; cases hstep
    omega
  · have h7 : s.bitcnt.toNat = 7 := by
      by_contra hne
      rw [hphase, if_neg hne] at hstore
      cases hstore
    have h8 : (seqDivide s).bitcnt.toNat = 8 := by omega
    exact ⟨h8, h8 ▸ hrem'⟩

/-- Once STORE wrote entry IDX the table is right up to and with it (R146 steps 4 and 5). -/
theorem tableWrite_remainder_eq_entry {s : State} (h : Built s) (hp : s.phase = .store) {d : Byte}
    (hd : d.toNat ≤ s.idx.toNat) :
    (s.tableWrite s.idx (reflectWord s.act.reflectOutput s.act.width.toNat s.rem)).tableRead d = entry d s.act := by
  obtain ⟨-, hbelow⟩ := h.below (by simp [hp])
  obtain ⟨-, hrem⟩ := h.divided hp
  rw [tableRead_tableWrite]
  split
  case isTrue heq =>
    rw [hrem, heq]
    rfl
  case isFalse hne => exact hbelow d (by bv_omega)

theorem built_sequencerStep_of_store {s : State} (h : Built s) (hp : s.phase = .store) : Built (sequencerStep s) := by
  obtain ⟨hvalid, -⟩ := h.below (by simp [hp])
  by_cases hi : s.idx = 255
  · rw [sequencerStep_of_store_last hp hi]
    exact
      { whole := fun _ => ⟨rfl, fun d => tableWrite_remainder_eq_entry h hp (by bv_omega)⟩
        below := fun hbusy => absurd rfl hbusy
        dividing := fun hs => nomatch hs
        divided := fun hs => nomatch hs }
  · rw [sequencerStep_of_store_ne_last hp hi]
    exact
      { whole := fun hv => nomatch hvalid.symm.trans hv
        below := fun _ => ⟨hvalid, fun d hd => tableWrite_remainder_eq_entry h hp (by simp only at hd; bv_omega)⟩
        dividing := fun hs => nomatch hs
        divided := fun hs => nomatch hs }

theorem built_sequencerStep {s : State} (h : Built s) : Built (sequencerStep s) := by
  cases hp : s.phase with
  | idle => exact (sequencerStep_of_idle hp).symm ▸ h
  | load => exact (sequencerStep_of_load hp).symm ▸ built_seqLoad h hp
  | step => exact (sequencerStep_of_step hp).symm ▸ built_seqDivide h hp
  | store => exact built_sequencerStep_of_store h hp

/-! ## How far a generation has come -/

/-- The sequencer steps taken since GENERATE was accepted, as PHASE, IDX and BITCNT show them: ten for each entry, 2560 for
the table (R276). -/
def stepsTaken (s : State) : Nat :=
  match s.phase with
  | .idle => 2560
  | .load => 10 * s.idx.toNat
  | .step => 10 * s.idx.toNat + s.bitcnt.toNat + 1
  | .store => 10 * s.idx.toNat + 9

theorem stepsTaken_of_idle {s : State} (h : s.phase = .idle) : stepsTaken s = 2560 := by simp [stepsTaken, h]

theorem stepsTaken_of_load {s : State} (h : s.phase = .load) : stepsTaken s = 10 * s.idx.toNat := by
  simp [stepsTaken, h]

theorem stepsTaken_of_step {s : State} (h : s.phase = .step) :
    stepsTaken s = 10 * s.idx.toNat + s.bitcnt.toNat + 1 := by simp [stepsTaken, h]

theorem stepsTaken_of_store {s : State} (h : s.phase = .store) : stepsTaken s = 10 * s.idx.toNat + 9 := by
  simp [stepsTaken, h]

/-- Every step of a running generation is one more. -/
theorem stepsTaken_sequencerStep {s : State} (h : Built s) (hbusy : s.phase ≠ .idle) :
    stepsTaken (sequencerStep s) = stepsTaken s + 1 := by
  cases hp : s.phase with
  | idle => exact absurd hp hbusy
  | load => rw [sequencerStep_of_load hp, stepsTaken_of_load hp]; rfl
  | step =>
    obtain ⟨hcount, -⟩ := h.dividing hp
    have hcount' := seqDivide_bitcnt_toNat hcount
    have hphase := seqDivide_phase_eq_ite hcount
    rw [sequencerStep_of_step hp, stepsTaken_of_step hp]
    by_cases h7 : s.bitcnt.toNat = 7
    · rw [if_pos h7] at hphase
      rw [stepsTaken_of_store hphase, seqDivide_idx, h7]
    · rw [if_neg h7] at hphase
      rw [stepsTaken_of_step hphase, seqDivide_idx, hcount', ← add_assoc (10 * _)]
  | store =>
    rw [stepsTaken_of_store hp]
    by_cases hi : s.idx = 255
    · rw [sequencerStep_of_store_last hp hi, stepsTaken_of_idle rfl, hi]; rfl
    · have hnext : (s.idx + 1).toNat = s.idx.toNat + 1 := by bv_omega
      rw [sequencerStep_of_store_ne_last hp hi, stepsTaken_of_load rfl, hnext]
      omega

/-- The step before the 2560th leaves only the STORE of entry 255. -/
theorem storesLastEntry_of_stepsTaken {s : State} (h : Built s) (hn : stepsTaken s = 2559) : StoresLastEntry s := by
  cases hp : s.phase with
  | idle => rw [stepsTaken_of_idle hp] at hn; omega
  | load => rw [stepsTaken_of_load hp] at hn; omega
  | step =>
    obtain ⟨hcount, -⟩ := h.dividing hp
    rw [stepsTaken_of_step hp] at hn
    omega
  | store =>
    rw [stepsTaken_of_store hp] at hn
    exact ⟨hp, by bv_omega⟩

/-- `n` sequencer steps of a generation that has at least `n` to go: they keep `Built` and the latched configuration. -/
theorem iterate_sequencerStep {s : State} (h : Built s) (n : Nat) (hn : stepsTaken s + n ≤ 2560) :
    Built (sequencerStep^[n] s) ∧ (sequencerStep^[n] s).act = s.act ∧
      stepsTaken (sequencerStep^[n] s) = stepsTaken s + n := by
  induction n with
  | zero => exact ⟨h, rfl, rfl⟩
  | succ n ih =>
    obtain ⟨hbuilt, hact, htaken⟩ := ih (by omega)
    have hbusy : (sequencerStep^[n] s).phase ≠ .idle := fun hidle => by
      rw [stepsTaken_of_idle hidle] at htaken
      omega
    rw [Function.iterate_succ_apply']
    exact ⟨built_sequencerStep hbuilt, (sequencerStep_act _).trans hact,
      by rw [stepsTaken_sequencerStep hbuilt hbusy, htaken, add_assoc]⟩

/-- The last STORE makes the table whole (R153). -/
theorem sequencerStep_of_storesLastEntry {s : State} (h : Built s) (hlast : StoresLastEntry s) :
    (sequencerStep s).valid = true ∧ (sequencerStep s).done = true ∧ (sequencerStep s).phase = .idle ∧
      (∀ d : Byte, (sequencerStep s).tableRead d = entry d s.act) ∧ (sequencerStep s).idx = 255 ∧
      (sequencerStep s).bitcnt = 8 := by
  obtain ⟨hp, hi⟩ := hlast
  obtain ⟨hcount, -⟩ := h.divided hp
  have hstep := sequencerStep_of_store_last hp hi
  have hvalid : (sequencerStep s).valid = true := by rw [hstep]
  obtain ⟨hphase, htable⟩ := (built_sequencerStep h).whole hvalid
  rw [sequencerStep_act] at htable
  exact ⟨hvalid, by rw [hstep], hphase, htable, by rw [hstep]; exact hi,
    by rw [hstep]; exact BitVec.eq_of_toNat_eq hcount⟩

/-- A generation that has `n + 1` steps to go is complete after them (R155). -/
theorem iterate_sequencerStep_completes {s : State} (h : Built s) {n : Nat} (hn : stepsTaken s + (n + 1) = 2560) :
    let t := sequencerStep^[n + 1] s
    t.valid = true ∧ t.done = true ∧ t.phase = .idle ∧ t.act = s.act ∧ (∀ d : Byte, t.tableRead d = entry d s.act) ∧
      t.idx = 255 ∧ t.bitcnt = 8 := by
  obtain ⟨hbuilt, hact, htaken⟩ := iterate_sequencerStep h n (by omega)
  obtain ⟨hvalid, hdone, hphase, htable, hidx, hcount⟩ :=
    sequencerStep_of_storesLastEntry hbuilt (storesLastEntry_of_stepsTaken hbuilt (by omega))
  rw [Function.iterate_succ_apply']
  exact ⟨hvalid, hdone, hphase, (sequencerStep_act _).trans hact, hact ▸ htable, hidx, hcount⟩

theorem stepsTaken_acceptGenerate (s : State) : stepsTaken (acceptGenerate s) = 0 := rfl

/-- Settles O19: an accepted GENERATE establishes `Built` and has 2560 steps to go. -/
theorem generationBuildsTheWholeTable : Obligations.GenerationBuildsTheWholeTable := by
  intro s u hidle hC hgen
  cases (exec_generate_of_valid hidle hC).symm.trans hgen
  exact iterate_sequencerStep_completes (built_acceptGenerate s) (n := 2559) (by rw [stepsTaken_acceptGenerate])

end Sys2Proof.Machine
end

section
/-! The entries of a table: their number, places and range (O10), and the ones known in closed form (O11). -/

namespace Sys2Proof.Machine

theorem entry_lt {m : WMax} {C : CrcConfig} (hC : C.Valid m) (d : Byte) : (entry d C).toNat < 2 ^ C.width.toNat := by
  have hW := hC.width_le
  obtain ⟨-, hP, -⟩ := hC
  exact reflectWord_lt hW _ (divisionSteps_lt hW (placeByte_lt hW _) hP 8)

/-- Settles O10: `build` maps `entry` over 0 to 255, and `entry` reads neither register. -/
theorem buildHas256EntriesInRange : Obligations.BuildHas256EntriesInRange := by
  refine fun m C hC => ⟨by simp [build], fun d => ?_, fun v hv => ?_, fun i x => rfl⟩
  · rw [build, List.getElem?_map, List.getElem?_range d.isLt, Option.map_some, BitVec.ofNat_toNat, BitVec.setWidth_eq]
  · obtain ⟨d, -, rfl⟩ := List.mem_map.1 hv
    exact entry_lt hC _

/-! ## One bit on its way through the register. The word whose one bit is bit k-1 is `topBitMask k`. -/

/-- A bit below the top only moves up (R122). -/
theorem divisionStep_topBitMask_of_lt {k W : Nat} (hk : 1 ≤ k) (hkW : k < W) (hW : W ≤ 64) (P : Word) :
    divisionStep (topBitMask k) P W = topBitMask (k + 1) := by
  have htop : ¬ W - 1 = k - 1 := by omega
  apply BitVec.eq_of_getLsbD_eq
  intro j _
  rw [divisionStep_getLsbD (by omega) hW, topBitMask_getLsbD hk (by omega), topBitMask_getLsbD hk (by omega),
    topBitMask_getLsbD (by omega) (by omega), decide_eq_false htop, Bool.false_and, Bool.xor_false,
    ← Bool.decide_and, ← Bool.decide_and, decide_eq_decide]
  omega

theorem divisionSteps_topBitMask {k n W : Nat} (hk : 1 ≤ k) (hkn : k + n ≤ W) (hW : W ≤ 64) (P : Word) :
    divisionSteps n (topBitMask k) P W = topBitMask (k + n) := by
  induction n with
  | zero => rfl
  | succ n ih => rw [divisionSteps, ih (by omega), divisionStep_topBitMask_of_lt (by omega) (by omega) hW, add_assoc]

/-- Bit i of the byte enters the register as bit W-8+i (R146 step 2). -/
theorem placeByte_twoPow {i W : Nat} (hi : i < 8) (hW : 8 ≤ W) (hW' : W ≤ 64) :
    placeByte (BitVec.twoPow 8 i) W = topBitMask (W - 7 + i) := by
  apply BitVec.eq_of_getLsbD_eq
  intro j _
  rw [placeByte_getLsbD hW hW', BitVec.getLsbD_twoPow, topBitMask_getLsbD (by omega) (by omega), decide_eq_true hi,
    Bool.true_and, ← Bool.decide_and, decide_eq_decide]
  omega

/-- The steps in their other order: the first one split off. -/
theorem divisionSteps_succ_first (n : Nat) (r P : Word) (W : Nat) :
    divisionSteps (n + 1) r P W = divisionSteps n (divisionStep r P W) P W := by
  induction n with
  | zero => rfl
  | succ n ih => rw [divisionSteps, ih, divisionSteps]

theorem entry_of_unreflected {C : CrcConfig} (hin : C.reflectInput = false) (hout : C.reflectOutput = false) (d : Byte) :
    entry d C = divisionSteps 8 (placeByte d C.width.toNat) C.polynomial C.width.toNat := by
  simp [entry, hin, hout, reflectByte, reflectWord]

section
variable {m : WMax} {C : CrcConfig} (hC : C.Valid m) (hin : C.reflectInput = false) (hout : C.reflectOutput = false)
include hC hin hout

/-- The bit of byte 1 reaches the top after seven steps, and the eighth leaves P (R156). -/
theorem entry_one_of_unreflected : entry 1 C = C.polynomial := by
  have hW' := hC.width_le
  obtain ⟨⟨-, hW, -⟩, -⟩ := hC
  have hplace : placeByte 1 C.width.toNat = topBitMask (C.width.toNat - 7) := placeByte_twoPow (i := 0) (by decide) hW hW'
  have htop : C.width.toNat - 7 + 7 = C.width.toNat := by omega
  rw [entry_of_unreflected hin hout, hplace, divisionSteps, divisionSteps_topBitMask (by omega) (by omega) hW', htop,
    divisionStep_topBitMask (by omega) hW']

/-- The bit of byte 0x80 is at the top at once: the first step leaves P (R156). -/
theorem entry_128_of_unreflected : entry 0x80 C = divisionSteps 7 C.polynomial C.polynomial C.width.toNat := by
  have hW' := hC.width_le
  obtain ⟨⟨-, hW, -⟩, -⟩ := hC
  have hplace : placeByte 0x80 C.width.toNat = topBitMask (C.width.toNat - 7 + 7) :=
    placeByte_twoPow (i := 7) (by decide) hW hW'
  have htop : C.width.toNat - 7 + 7 = C.width.toNat := by omega
  rw [entry_of_unreflected hin hout, hplace, htop, divisionSteps_succ_first, divisionStep_topBitMask (by omega) hW']

end

/-- Settles O11: a table read is an entry, and the entries are linear and known for the bytes 0, 1 and 0x80. -/
theorem generatedTablesHaveTheKnownEntries : Obligations.GeneratedTablesHaveTheKnownEntries := by
  intro s hC hbuilt hvalid
  obtain ⟨-, htable⟩ := hbuilt.whole hvalid
  simp only [htable]
  refine ⟨entry_zero hC, fun hin hout => ⟨entry_one_of_unreflected hC hin hout, ?_, fun hW hP => ?_⟩, entry_xor hC⟩
  · exact entry_128_of_unreflected hC hin hout
  · rw [entry_128_of_unreflected hC hin hout, hW, hP]
    decide

end Sys2Proof.Machine
end

section
/-! The lookup against the bitwise reference: an entry recovered from any reflections (O12), and one folded byte as eight
division steps of the register (R182, R184). -/

namespace Sys2Proof.Machine

/-! ## Reflection undone by reflection -/

theorem reflectByte_reflectByte (flag : Bool) (b : Byte) : reflectByte flag (reflectByte flag b) = b := by
  cases flag with
  | false => rfl
  | true => exact revByte_revByte b

theorem reflectWord_reflectWord {W : Nat} (hW : W ≤ 64) (flag : Bool) {v : Word} (hv : v.toNat < 2 ^ W) :
    reflectWord flag W (reflectWord flag W v) = v := by
  cases flag with
  | false => rfl
  | true => exact rev_rev hW hv

/-- The reflections of a configuration only permute its table and mirror its entries. -/
theorem entry_reflectByte (C : CrcConfig) (x : Byte) :
    entry (reflectByte C.reflectInput x) C = reflectWord C.reflectOutput C.width.toNat (entry x C.unreflected) := by
  rw [entry_of_unreflected (C := C.unreflected) rfl rfl, entry, reflectByte_reflectByte]
  rfl

/-- Settles O12: the entry is a mirrored entry of the unreflected table, and mirroring twice changes nothing. -/
theorem unreflectedEntriesAreRecovered : Obligations.UnreflectedEntriesAreRecovered := by
  intro m C hC x
  have hfits : (entry x C.unreflected).toNat < 2 ^ C.width.toNat := entry_lt (C := C.unreflected) hC x
  rw [entry_reflectByte, reflectWord_reflectWord hC.width_le _ hfits]

/-! ## Eight division steps of a register: its top byte goes through the table, the rest only moves up -/

/-- No division step adds P while the bits that reach the top are 0. -/
theorem toNat_divisionSteps_of_lt {n W : Nat} (hW : 1 ≤ W) (hW' : W ≤ 64) {r : Word} (hr : r.toNat * 2 ^ n < 2 ^ W)
    (P : Word) : (divisionSteps n r P W).toNat = r.toNat * 2 ^ n := by
  induction n with
  | zero => exact (Nat.mul_one _).symm
  | succ n ih =>
    have hdouble : r.toNat * 2 ^ (n + 1) = 2 * (r.toNat * 2 ^ n) := by ring
    have htop : 2 ^ W = 2 * 2 ^ (W - 1) := (mul_pow_sub_one (by omega) 2).symm
    have hbit : (r.toNat * 2 ^ n).testBit (W - 1) = false := Nat.testBit_lt_two_pow (by omega)
    rw [divisionSteps, toNat_divisionStep hW hW', ih (by omega), hbit, if_neg Bool.false_ne_true, Nat.xor_zero,
      ← hdouble, Nat.mod_eq_of_lt hr]

theorem and_widthMask_of_lt {W : Nat} (hW : W ≤ 64) {v : Word} (hv : v.toNat < 2 ^ W) : v &&& widthMask W = v := by
  apply BitVec.eq_of_toNat_eq
  rw [toNat_and_widthMask hW, Nat.mod_eq_of_lt hv]

/-- A byte shifted to the top of the register lies within the register: the mask of R146 takes nothing from it. -/
theorem shiftLeft_eq_placeByte {W : Nat} (hW : 8 ≤ W) (hW' : W ≤ 64) (b : Byte) :
    b.setWidth 64 <<< (W - 8) = placeByte b W := by
  have hbyte : (b.setWidth 64).toNat < 2 ^ 8 := by rw [BitVec.toNat_setWidth_of_le (by decide)]; exact b.isLt
  have hfits : (b.setWidth 64 <<< (W - 8)).toNat < 2 ^ W := calc
    (b.setWidth 64 <<< (W - 8)).toNat ≤ (b.setWidth 64).toNat * 2 ^ (W - 8) := by
      rw [BitVec.toNat_shiftLeft, Nat.shiftLeft_eq]; exact Nat.mod_le _ _
    _ < 2 ^ 8 * 2 ^ (W - 8) := Nat.mul_lt_mul_of_pos_right hbyte (Nat.two_pow_pos _)
    _ = 2 ^ W := pow_mul_pow_sub 2 hW
  exact (and_widthMask_of_lt hW' hfits).symm

/-- The register is its low bits and, in its place, its top byte. -/
theorem low_xor_placeByte_top {W : Nat} (hW : 8 ≤ W) (hW' : W ≤ 64) {r : Word} (hr : r.toNat < 2 ^ W) :
    (r &&& widthMask (W - 8)) ^^^ placeByte ((r >>> (W - 8)).setWidth 8) W = r := by
  apply BitVec.eq_of_getLsbD_eq
  intro j _
  rw [BitVec.getLsbD_xor, and_widthMask_getLsbD (by omega), placeByte_getLsbD hW hW', BitVec.getLsbD_setWidth,
    BitVec.getLsbD_ushiftRight]
  obtain hj | ⟨hlow, hj⟩ | hj : j < W - 8 ∨ (W - 8 ≤ j ∧ j < W) ∨ W ≤ j := by omega
  · simp [hj, hj.not_ge]
  · simp [hlow, hlow.not_gt, show j - (W - 8) < 8 by omega]
  · simp [(toNat_lt_iff_getLsbD W r).1 hr j hj, show ¬ j < W - 8 by omega, show ¬ j - (W - 8) < 8 by omega]

theorem divisionSteps_low {W : Nat} (hW : 8 ≤ W) (hW' : W ≤ 64) (r P : Word) :
    divisionSteps 8 (r &&& widthMask (W - 8)) P W = (r <<< 8) &&& widthMask W := by
  have hsplit : 2 ^ (W - 8) * 2 ^ 8 = 2 ^ W := pow_sub_mul_pow 2 hW
  have hlow := toNat_and_widthMask (show W - 8 ≤ 64 by omega) r
  have hfits : (r &&& widthMask (W - 8)).toNat * 2 ^ 8 < 2 ^ W := by
    rw [hlow, ← hsplit]
    exact Nat.mul_lt_mul_of_pos_right (Nat.mod_lt _ (Nat.two_pow_pos _)) (by decide)
  apply BitVec.eq_of_toNat_eq
  rw [toNat_divisionSteps_of_lt (by omega) hW' hfits, hlow, toNat_and_widthMask hW', BitVec.toNat_shiftLeft,
    Nat.shiftLeft_eq, Nat.mod_mod_of_dvd _ (Nat.pow_dvd_pow 2 hW'), ← hsplit, Nat.mul_mod_mul_right]

section
variable {m : WMax} {C : CrcConfig} (hC : C.Valid m)
include hC

/-- One byte of the reference is a shift and a lookup in the unreflected table: division is linear, and only the top byte
meets the polynomial (R182). -/
theorem crcRefByte_eq_lookup {r : Word} (hr : r.toNat < 2 ^ C.width.toNat) (b : Byte) :
    crcRefByte C r b = ((r <<< 8) &&& widthMask C.width.toNat) ^^^ entry (updateIndex C r b) C.unreflected := by
  have hW' := hC.width_le
  obtain ⟨⟨-, hW, -⟩, -⟩ := hC
  have hsplit : r ^^^ (reflectByte C.reflectInput b).setWidth 64 <<< (C.width.toNat - 8) =
      (r &&& widthMask (C.width.toNat - 8)) ^^^ placeByte (updateIndex C r b) C.width.toNat := by
    rw [shiftLeft_eq_placeByte hW hW', updateIndex, placeByte_xor hW hW', ← BitVec.xor_assoc,
      low_xor_placeByte_top hW hW' hr]
  rw [crcRefByte, hsplit, divisionSteps_xor (by omega) hW', divisionSteps_low hW hW',
    entry_of_unreflected (C := C.unreflected) rfl rfl]
  rfl

theorem crcRefByte_lt {r : Word} (hr : r.toNat < 2 ^ C.width.toNat) (b : Byte) :
    (crcRefByte C r b).toNat < 2 ^ C.width.toNat := by
  rw [crcRefByte_eq_lookup hC hr]
  exact toNat_xor_lt (and_widthMask_lt hC.width_le _) (entry_lt (C := C.unreflected) hC _)

end

/-- Folding a byte into ACC with the table of ACT_* is one byte of the reference (R182, R184, R185). -/
theorem updatedAcc_eq_crcRefByte {s : State} (hC : s.act.Valid s.wMax) (htable : ∀ d, s.tableRead d = entry d s.act)
    (hacc : s.acc.toNat < 2 ^ s.act.width.toNat) (b : Byte) : updatedAcc s b = crcRefByte s.act s.acc b := by
  rw [crcRefByte_eq_lookup hC hacc, updatedAcc, htable, unreflectedEntriesAreRecovered _ _ hC]

end Sys2Proof.Machine
end

section
/-! The message commands: refused without a complete table (O25), and a whole message run (O26). -/

namespace Sys2Proof.Machine

/-! ## One command -/

theorem messageRefusal_of_busy {s : State} (hbusy : s.phase ≠ .idle) : messageRefusal s = some .busy := by
  simp [messageRefusal, (busy_eq_true s).2 hbusy]

theorem messageRefusal_of_not_valid {s : State} (hidle : s.phase = .idle) (hv : s.valid = false) :
    messageRefusal s = some .notReady := by
  simp [messageRefusal, (busy_eq_false s).2 hidle, hv]

theorem messageRefusal_of_ready {s : State} (hidle : s.phase = .idle) (hv : s.valid = true) : messageRefusal s = none := by
  simp [messageRefusal, (busy_eq_false s).2 hidle, hv]

theorem exec_message_of_refusal {s : State} {i : Instr} {e : ErrCode}
    (hi : i = .crcInit ∨ (∃ b, i = .crcUpdate b) ∨ i = .crcFinal) (he : messageRefusal s = some e) :
    exec i s = .next (raiseError e s) := by
  obtain rfl | ⟨b, rfl⟩ | rfl := hi
  · simp only [exec, execCrcInit, he]
  · simp only [exec, execCrcUpdate, he]
  · simp only [exec, execCrcFinal, he]

/-- Settles O25: the refusal is BUSY or NOT_READY, and each message command answers it alike. -/
theorem messageCommandsNeedACompleteTable : Obligations.MessageCommandsNeedACompleteTable := fun _ _ hi =>
  ⟨fun hbusy => exec_message_of_refusal hi (messageRefusal_of_busy hbusy),
    fun hidle hv => exec_message_of_refusal hi (messageRefusal_of_not_valid hidle hv)⟩

section
variable {s : State} (hidle : s.phase = .idle) (hv : s.valid = true)
include hidle hv

theorem exec_crcInit_of_ready : exec .crcInit s = .next { s with acc := s.act.initialRemainder } := by
  simp only [exec, execCrcInit, messageRefusal_of_ready hidle hv]

theorem exec_crcUpdate_of_ready (b : Byte) : exec (.crcUpdate b) s = .next { s with acc := updatedAcc s b } := by
  simp only [exec, execCrcUpdate, messageRefusal_of_ready hidle hv]

theorem exec_crcFinal_of_ready : exec .crcFinal s = .next { s with result := finishedCrc s } := by
  simp only [exec, execCrcFinal, messageRefusal_of_ready hidle hv]

end

/-! ## Runs of commands -/

theorem runCommands_cons_of_next {i : Instr} {rest : List Instr} {s t : State} (h : exec i s = .next t) :
    runCommands (i :: rest) s = runCommands rest t := by
  rw [runCommands, h]

theorem runCommands_append_of_next {is rest : List Instr} {s t : State} (h : runCommands is s = .next t) :
    runCommands (is ++ rest) s = runCommands rest t := by
  induction is generalizing s with
  | nil => cases h; rfl
  | cons i is ih =>
    rw [runCommands] at h
    rw [List.cons_append, runCommands]
    cases hi : exec i s with
    | next u => exact ih (by rwa [hi] at h)
    | fault e => rw [hi] at h; cases h
    | refused e => rw [hi] at h; cases h

/-- The bytes of a message take ACC along the registers of the reference, from any value that fits. -/
theorem runCommands_crcUpdates {s : State} (hidle : s.phase = .idle) (hv : s.valid = true) (hC : s.act.Valid s.wMax)
    (htable : ∀ d, s.tableRead d = entry d s.act) (msg : List Byte) {r : Word} (hr : r.toNat < 2 ^ s.act.width.toNat) :
    runCommands (msg.map .crcUpdate) { s with acc := r } = .next { s with acc := msg.foldl (crcRefByte s.act) r } := by
  induction msg generalizing r with
  | nil => rfl
  | cons b msg ih =>
    have hbyte : updatedAcc { s with acc := r } b = crcRefByte s.act r b :=
      updatedAcc_eq_crcRefByte (s := { s with acc := r }) hC htable hr b
    have hupdate := exec_crcUpdate_of_ready (s := { s with acc := r }) hidle hv b
    rw [hbyte] at hupdate
    rw [List.map_cons, runCommands_cons_of_next hupdate, List.foldl_cons]
    exact ih (crcRefByte_lt hC hr b)

theorem runCommands_messageCommands {s : State} (hidle : s.phase = .idle) (hv : s.valid = true)
    (hC : s.act.Valid s.wMax) (hbuilt : Built s) (msg : List Byte) :
    runCommands (messageCommands msg) s = .next { s with acc := crcRefRegister s.act msg } := by
  obtain ⟨-, htable⟩ := hbuilt.whole hv
  have ⟨_, _, hinit, _⟩ := hC
  rw [messageCommands, runCommands_cons_of_next (exec_crcInit_of_ready hidle hv)]
  exact runCommands_crcUpdates hidle hv hC htable msg hinit

/-- Settles O26: the run of CRC_INIT and the bytes, and CRC_FINAL from the state it leaves. -/
theorem messageCrcEqualsTheBitwiseReference : Obligations.MessageCrcEqualsTheBitwiseReference := by
  intro s msg hidle hv hC hbuilt
  have hrun := runCommands_messageCommands hidle hv hC hbuilt msg
  have hfinal := exec_crcFinal_of_ready (s := { s with acc := crcRefRegister s.act msg }) hidle hv
  exact ⟨⟨_, hrun, rfl⟩, _, (runCommands_append_of_next hrun).trans (runCommands_cons_of_next hfinal), rfl, rfl⟩

end Sys2Proof.Machine
end

section
/-! Errors and the interrupt: what a cycle that writes CMD records (O32), what its access finds in the last STORE (O33), that a
refused access records nothing (O42), the first error (O34), and `irq` (O35). -/

namespace Sys2Proof.Machine

/-! ## A cycle whose access writes a word to CMD (R213) -/

theorem accessWith_cmdWrite (run : Instr → State → Result State) (w : Word) (s : State) :
    accessWith run (cmdWrite w) s = onNext (commandWith run w s) (respond .okayWrite) := by
  simp [accessWith, cmdWrite, memWriteWith]

theorem step_of_command {s u : State} {w : Word} {i : Instr} (hpow : s.powerLost = false)
    (he : nextEvent s = .cycle (some (cmdWrite w))) (hd : decode w = .command i)
    (hx : exec i (afterSequencer s) = .next u) : step s = .next (respond .okayWrite u) := by
  simp only [step_of_access hpow he, accessWith_cmdWrite, commandWith, hd, hx, onNext_next]

theorem step_of_illegal {s : State} {w : Word} {why : Illegal} (hpow : s.powerLost = false)
    (he : nextEvent s = .cycle (some (cmdWrite w))) (hd : decode w = .illegal why) :
    step s = .next (respond .okayWrite (raiseError .illegalCmd (afterSequencer s))) := by
  simp only [step_of_access hpow he, accessWith_cmdWrite, commandWith, hd, onNext_next]

/-! ## The error record -/

/-- ERR and ERR_CODE hold the one error `c`, or none where `c` is NONE (R42, R240). -/
def RecordsOnly (c : ErrCode) (s : State) : Prop := s.errCode = c.code ∧ s.err = decide (c ≠ .none)

/-- An error raised on a clean record is the one recorded (R241). -/
theorem recordsOnly_raiseError {c : ErrCode} (hc : c ≠ .none) {s : State} (h : RecordsOnly .none s) :
    RecordsOnly c (raiseError c s) := by
  obtain ⟨-, herr⟩ := h
  simp [RecordsOnly, herr, hc]

theorem RecordsOnly.congr {c : ErrCode} {s t : State} (h : RecordsOnly c s) (hcode : t.errCode = s.errCode)
    (herr : t.err = s.err) : RecordsOnly c t := by
  rwa [RecordsOnly, hcode, herr]

/-- No check of GENERATE fails with NONE (R142). -/
theorem checkConfig_ne_noError {m : WMax} {C : CrcConfig} {e : ErrCode} (h : checkConfig m C = some e) : e ≠ .none := by
  rintro rfl
  obtain ⟨hlow, -⟩ := code_of_checkConfig h
  exact absurd hlow (by decide)

/-- GENERATE: BUSY comes before the checks, of which the first that fails is recorded (R245). -/
theorem exec_generate_recordsOnly {s : State} (h : RecordsOnly .none s) :
    ∃ t, exec .generate s = .next t ∧
      RecordsOnly (if s.phase ≠ .idle then .busy else (checkConfig s.wMax s.pending).getD .none) t := by
  split_ifs with hbusy
  · exact ⟨_, exec_generate_of_busy hbusy, recordsOnly_raiseError (by decide) h⟩
  · have hidle : s.phase = .idle := not_not.1 hbusy
    cases hc : checkConfig s.wMax s.pending with
    | some e => exact ⟨_, exec_generate_of_failed_check hidle hc, recordsOnly_raiseError (checkConfig_ne_noError hc) h⟩
    | none => exact ⟨_, exec_generate_of_valid hidle (valid_of_checkConfig hc), h.congr rfl rfl⟩

theorem exec_message_of_ready {s : State} {i : Instr} (hi : i = .crcInit ∨ (∃ b, i = .crcUpdate b) ∨ i = .crcFinal)
    (hidle : s.phase = .idle) (hv : s.valid = true) :
    ∃ t, exec i s = .next t ∧ t.errCode = s.errCode ∧ t.err = s.err := by
  obtain rfl | ⟨b, rfl⟩ | rfl := hi
  · exact ⟨_, exec_crcInit_of_ready hidle hv, rfl, rfl⟩
  · exact ⟨_, exec_crcUpdate_of_ready hidle hv b, rfl, rfl⟩
  · exact ⟨_, exec_crcFinal_of_ready hidle hv, rfl, rfl⟩

/-- A message command: BUSY comes before NOT_READY (R180, R245). -/
theorem exec_message_recordsOnly {s : State} {i : Instr}
    (hi : i = .crcInit ∨ (∃ b, i = .crcUpdate b) ∨ i = .crcFinal) (h : RecordsOnly .none s) :
    ∃ t, exec i s = .next t ∧
      RecordsOnly (if s.phase ≠ .idle then .busy else if s.valid then .none else .notReady) t := by
  split_ifs with hbusy hv
  · exact ⟨_, exec_message_of_refusal hi (messageRefusal_of_busy hbusy), recordsOnly_raiseError (by decide) h⟩
  · obtain ⟨t, hx, hcode, herr⟩ := exec_message_of_ready hi (not_not.1 hbusy) hv
    exact ⟨t, hx, h.congr hcode herr⟩
  · have hrefusal := messageRefusal_of_not_valid (not_not.1 hbusy) (Bool.not_eq_true _ ▸ hv)
    exact ⟨_, exec_message_of_refusal hi hrefusal, recordsOnly_raiseError (by decide) h⟩

theorem exec_abort_recordsOnly {s : State} (h : RecordsOnly .none s) :
    ∃ t, exec .abort s = .next t ∧ RecordsOnly .none t := by
  obtain ⟨-, ht⟩ | ⟨-, ht⟩ := execAbort_cases (s := s) rfl
  · exact ⟨_, rfl, by rwa [ht]⟩
  · exact ⟨_, rfl, by rw [ht]; exact h.congr rfl rfl⟩

/-- Settles O32, by the decoded word: an illegal one raises ILLEGAL_CMD, and each command records what its checks say. -/
theorem commandErrorsByPriority : Obligations.CommandErrorsByPriority := by
  intro s w hpow he u herr hcode code
  have hclean : RecordsOnly .none u := ⟨hcode, herr⟩
  cases hd : decode w with
  | illegal why =>
    have hrec : RecordsOnly code (raiseError .illegalCmd u) := by
      simpa only [code, hd] using recordsOnly_raiseError (by decide) hclean
    exact ⟨_, step_of_illegal hpow he hd, hrec⟩
  | command i =>
    have hexec : ∃ t, exec i u = .next t ∧ RecordsOnly code t := by
      simp only [code, hd]
      cases i with
      | nop => exact ⟨u, rfl, hclean⟩
      | generate => exact exec_generate_recordsOnly hclean
      | abort => exact exec_abort_recordsOnly hclean
      | ack => exact ⟨acknowledge u, rfl, rfl, rfl⟩
      | crcInit => exact exec_message_recordsOnly (.inl rfl) hclean
      | crcUpdate b => exact exec_message_recordsOnly (.inr (.inl ⟨b, rfl⟩)) hclean
      | crcFinal => exact exec_message_recordsOnly (.inr (.inr rfl)) hclean
    obtain ⟨t, hx, hrec⟩ := hexec
    exact ⟨_, step_of_command hpow he hd hx, hrec⟩

/-! ## The cycle of the last STORE -/

/-- What the access of that cycle finds (R153, R275). -/
theorem afterSequencer_of_last {s : State} (hp : s.phase = .store) (hi : s.idx = 255) :
    (afterSequencer s).phase = .idle ∧ (afterSequencer s).valid = true ∧ (afterSequencer s).done = true := by
  rw [afterSequencer, sequencerStep_of_store_last (s := takeEvent s) hp hi]
  exact ⟨rfl, rfl, rfl⟩

/-- Settles O33: each access meets an idle block with VALID and DONE set; reset does not look at the state. -/
theorem finalStoreComesBeforeTheAccess : Obligations.FinalStoreComesBeforeTheAccess := by
  intro s hpow hp hi
  obtain ⟨hidle, hv, hdone⟩ := afterSequencer_of_last hp hi
  refine ⟨fun he => ?_, fun he => ?_, fun w why hd he => ?_, fun req he => ?_⟩
  · have hx := exec_crcInit_of_ready hidle hv
    exact ⟨_, step_of_command hpow he (Laws.RoundTrip.crcInit rfl) hx, by simp [afterSequencer], by simp [afterSequencer],
      hv, hdone⟩
  · exact ⟨_, step_of_command hpow he (Laws.RoundTrip.ack rfl) rfl, rfl, rfl, hv⟩
  · exact ⟨_, step_of_illegal hpow he hd, hdone, rfl⟩
  · exact ⟨enterReset req (takeEvent s), by rw [step_eq, he, eventWith], rfl, rfl, rfl, rfl⟩

/-! ## Accesses answered SLVERR -/

/-- Settles O42, by what the access can do: an answer alone leaves the rest of the state; register writes and commands are
answered OKAY. -/
theorem refusedAccessesChangeNothing : Obligations.RefusedAccessesChangeNothing := by
  intro s t a r hpow he hs hrsp hrefused
  rw [step_of_access hpow he] at hs
  have hnotOkay (u : State) : t ≠ respond .okayWrite u := by
    rintro rfl
    cases hrsp
    exact nomatch hrefused
  obtain ⟨q, rfl, -⟩ | ⟨q, -, -, -, -, -, ht, -⟩ | ⟨i, u, -, -, -, ht⟩ | ⟨why, -, -, ht⟩ := access_cases hs
  · cases hrsp
    rfl
  · exact absurd ht (hnotOkay _)
  · exact absurd ht (hnotOkay _)
  · exact absurd ht (hnotOkay _)

/-! ## The first error, and the interrupt level -/

/-- Settles O34, by the two cases of ERR. -/
theorem firstErrorIsKept : Obligations.FirstErrorIsKept := by
  refine fun c s => ⟨fun h => ?_, fun h => ?_⟩
  · simp [raiseError, h]
  · rw [raiseError, if_pos h, ← h]

theorem irq_eq_true_iff (s : State) :
    s.irq = true ↔ (s.done = true ∧ s.doneIe = true) ∨ (s.err = true ∧ s.errIe = true) := by
  simp [State.irq]

/-- STATUS.IRQ lies above VALID, DONE, ERR and BUSY, one bit each (R32). -/
theorem statusWord_bit_irq (s : State) : s.statusWord.getLsbD 4 = s.irq := by
  simp only [State.statusWord, BitVec.getLsbD_append]
  simp

/-- Settles O35: the level as it is computed, and its place in STATUS. -/
theorem irqIsTheMaskedLevel : Obligations.IrqIsTheMaskedLevel := fun s => ⟨irq_eq_true_iff s, statusWord_bit_irq s⟩

end Sys2Proof.Machine
end

section
/-! The command word (R90 to R95): decoder and encoder agree (O2), the match and mask rows select what decodes (O3), the
illegal words in arithmetic (O4), and words written out (O1). A word is its three fields, so each statement is one about RSV,
B and OPC. -/

namespace Sys2Proof

/-! ## A word is its fields -/

theorem append_eq_append_iff {n k : Nat} {x x' : BitVec n} {y y' : BitVec k} : x ++ y = x' ++ y' ↔ x = x' ∧ y = y' := by
  refine ⟨fun h => ⟨?_, ?_⟩, fun ⟨hx, hy⟩ => by rw [hx, hy]⟩
  · simpa only [BitVec.extractLsb'_append_eq_left] using congrArg (fun v : BitVec (n + k) => v.extractLsb' k n) h
  · simpa only [BitVec.extractLsb'_append_eq_right] using congrArg (fun v : BitVec (n + k) => v.extractLsb' 0 k) h

theorem fields_append (w : Word) : (rsvField w ++ byteField w) ++ opcField w = w := by
  have hupper : rsvField w ++ byteField w = w.extractLsb' 8 56 :=
    BitVec.extractLsb'_append_extractLsb'_eq_extractLsb' rfl
  rw [hupper]
  exact (BitVec.extractLsb'_append_extractLsb'_eq_extractLsb' rfl).trans BitVec.extractLsb'_eq_self

theorem eq_append_iff {w : Word} {rsv : BitVec 48} {b opc : Byte} :
    w = (rsv ++ b) ++ opc ↔ rsvField w = rsv ∧ byteField w = b ∧ opcField w = opc := by
  conv_lhs => rw [← fields_append w]
  rw [append_eq_append_iff, append_eq_append_iff, and_assoc]

theorem eq_encode_iff {w : Word} {i : Instr} :
    w = encode i ↔ rsvField w = 0 ∧ byteField w = operandOf i ∧ opcField w = opcodeOf i :=
  eq_append_iff

/-! ## The decoder by fields -/

theorem decodeOpcode_eq_command {opc : Byte} {i : Instr} (h : decodeOpcode opc = .command i) :
    operandOf i = 0 ∧ opc = opcodeOf i := by
  unfold decodeOpcode at h
  split_ifs at h with hopc <;> cases h <;> exact ⟨rfl, ‹_›⟩

theorem fields_of_decode {w : Word} {i : Instr} (h : decode w = .command i) :
    rsvField w = 0 ∧ byteField w = operandOf i ∧ opcField w = opcodeOf i := by
  unfold decode at h
  split_ifs at h with hrsv hopc hbyte
  · cases h
    exact ⟨not_not.1 hrsv, rfl, hopc⟩
  · obtain ⟨hoperand, hopcode⟩ := decodeOpcode_eq_command h
    exact ⟨not_not.1 hrsv, (not_not.1 hbyte).trans hoperand.symm, hopcode⟩

theorem decode_encode (i : Instr) : decode (encode i) = .command i := by
  cases i with
  | nop => exact Laws.RoundTrip.nop rfl
  | generate => exact Laws.RoundTrip.generate rfl
  | abort => exact Laws.RoundTrip.abort rfl
  | ack => exact Laws.RoundTrip.ack rfl
  | crcInit => exact Laws.RoundTrip.crcInit rfl
  | crcUpdate b => exact Laws.RoundTrip.crcUpdate b rfl
  | crcFinal => exact Laws.RoundTrip.crcFinal rfl

theorem decode_eq_command_iff {w : Word} {i : Instr} : decode w = .command i ↔ w = encode i :=
  ⟨fun h => eq_encode_iff.2 (fields_of_decode h), fun h => h ▸ decode_encode i⟩

/-- Settles O2: a word that decodes has the fields of its command's word, and a command's word decodes. -/
theorem decodeInvertsEncode : Obligations.DecodeInvertsEncode := fun _ _ => decode_eq_command_iff

/-- Settles O1: the twelve words, evaluated. -/
theorem wordsOfTheOpcodeMapDecode : Obligations.WordsOfTheOpcodeMapDecode := by
  unfold Obligations.WordsOfTheOpcodeMapDecode
  decide

/-! ## The match and mask rows (R93) -/

/-- A row that masks nothing away selects its pattern only. -/
theorem selects_iff_of_full_mask (m : String) (p w : Word) :
    OpcodeRow.selects ⟨m, p, 0xFFFFFFFFFFFFFFFF⟩ w = true ↔ w = p := by
  have hmask : (0xFFFFFFFFFFFFFFFF : Word) = BitVec.allOnes 64 := by decide
  rw [OpcodeRow.selects, beq_iff_eq, hmask, BitVec.and_allOnes]

/-- The row of CRC_UPDATE masks B away. -/
theorem selects_crcUpdate_iff (m : String) (w : Word) :
    OpcodeRow.selects ⟨m, 0x0000000000000005, 0xFFFFFFFFFFFF00FF⟩ w = true ↔ ∃ b, w = encode (.crcUpdate b) := by
  have hmask : (0xFFFFFFFFFFFF00FF : Word) = (BitVec.allOnes 48 ++ 0#8) ++ BitVec.allOnes 8 := by decide
  have hmatch : (0x0000000000000005 : Word) = (0#48 ++ 0#8) ++ opcodeOf (.crcUpdate 0) := by decide
  have hand : w &&& ((BitVec.allOnes 48 ++ 0#8) ++ BitVec.allOnes 8) = (rsvField w ++ 0#8) ++ opcField w := by
    conv_lhs => rw [← fields_append w]
    rw [BitVec.and_append, BitVec.and_append, BitVec.and_allOnes, BitVec.and_allOnes, BitVec.and_zero]
  rw [OpcodeRow.selects, beq_iff_eq, hmask, hmatch, hand, append_eq_append_iff, append_eq_append_iff]
  simp [eq_encode_iff, operandOf, opcodeOf]

theorem eq_of_mnemonicOf_eq {i j : Instr} (hi : ∀ b, i ≠ .crcUpdate b) (h : mnemonicOf j = mnemonicOf i) : j = i := by
  cases i with
  | crcUpdate b => exact absurd rfl (hi b)
  | _ => cases j <;> simp_all [mnemonicOf]

theorem eq_crcUpdate_of_mnemonicOf {j : Instr} (h : mnemonicOf j = "CRC_UPDATE") : ∃ b, j = .crcUpdate b := by
  cases j <;> simp_all [mnemonicOf]

/-- The row of a command without operand selects the word of that command. -/
theorem exact_row_selects_iff {i : Instr} (hi : ∀ b, i ≠ .crcUpdate b) (w : Word) :
    OpcodeRow.selects ⟨mnemonicOf i, encode i, 0xFFFFFFFFFFFFFFFF⟩ w = true ↔
      ∃ j, decode w = .command j ∧ mnemonicOf j = mnemonicOf i := by
  simp only [selects_iff_of_full_mask, decode_eq_command_iff]
  constructor
  · exact fun h => ⟨i, h, rfl⟩
  · rintro ⟨j, hw, hj⟩
    rwa [eq_of_mnemonicOf_eq hi hj] at hw

theorem row_selects_iff (w : Word) {row : OpcodeRow} (hrow : row ∈ opcodeRows) :
    row.selects w = true ↔ ∃ i, decode w = .command i ∧ mnemonicOf i = row.mnemonic := by
  simp only [opcodeRows, List.mem_cons, List.not_mem_nil, or_false] at hrow
  obtain rfl | rfl | rfl | rfl | rfl | rfl | rfl := hrow
  · exact exact_row_selects_iff (i := .nop) nofun w
  · exact exact_row_selects_iff (i := .generate) nofun w
  · exact exact_row_selects_iff (i := .abort) nofun w
  · exact exact_row_selects_iff (i := .ack) nofun w
  · exact exact_row_selects_iff (i := .crcInit) nofun w
  · simp only [selects_crcUpdate_iff, decode_eq_command_iff]
    constructor
    · exact fun ⟨b, hw⟩ => ⟨.crcUpdate b, hw, rfl⟩
    · rintro ⟨j, hw, hj⟩
      obtain ⟨b, rfl⟩ := eq_crcUpdate_of_mnemonicOf hj
      exact ⟨b, hw⟩
  · exact exact_row_selects_iff (i := .crcFinal) nofun w

/-- No row selects an illegal word. -/
theorem row_selects_eq_false {w : Word} {why : Illegal} (hd : decode w = .illegal why) {row : OpcodeRow}
    (hrow : row ∈ opcodeRows) : row.selects w = false := by
  rw [← Bool.not_eq_true, row_selects_iff w hrow, hd]
  rintro ⟨i, hi, -⟩
  cases hi

/-- The rows that select the word of a command are the rows with its mnemonic. -/
theorem row_selects_eq_decide {w : Word} {i : Instr} (hd : decode w = .command i) {row : OpcodeRow}
    (hrow : row ∈ opcodeRows) : row.selects w = decide (row.mnemonic = mnemonicOf i) := by
  rw [Bool.eq_iff_iff, row_selects_iff w hrow, hd, decide_eq_true_iff]
  simp [eq_comm]

theorem exists_row_of_mnemonic (i : Instr) : ∃ row ∈ opcodeRows, row.mnemonic = mnemonicOf i := by
  cases i <;> simp [opcodeRows, mnemonicOf]

theorem rows_of_mnemonic_le_one (i : Instr) :
    (opcodeRows.filter fun row => decide (row.mnemonic = mnemonicOf i)).length ≤ 1 := by
  cases i <;> simp [opcodeRows, mnemonicOf]

/-- Settles O3, by the decoded word: no row selects an illegal one, and exactly the row of the mnemonic a command's. -/
theorem opcodeRowsSelectWhatDecodes : Obligations.OpcodeRowsSelectWhatDecodes := by
  refine fun w => ⟨fun row hrow => row_selects_iff w hrow, ?_⟩
  cases hd : decode w with
  | illegal why =>
    have hnone : ∀ row ∈ opcodeRows, row.selects w = false := fun row hrow => row_selects_eq_false hd hrow
    have hfilter : (opcodeRows.filter fun row => row.selects w) = [] := by simpa using hnone
    exact ⟨by simp [hfilter], fun _ => ⟨why, rfl⟩, fun _ => hnone⟩
  | command i =>
    refine ⟨?_, fun hnone => ?_, fun ⟨_, h⟩ => nomatch h⟩
    · rw [List.filter_congr fun row hrow => row_selects_eq_decide hd hrow]
      exact rows_of_mnemonic_le_one i
    · obtain ⟨row, hrow, hm⟩ := exists_row_of_mnemonic i
      have hsel := hnone row hrow
      rw [row_selects_eq_decide hd hrow, hm, decide_eq_false_iff_not] at hsel
      exact absurd rfl hsel

/-! ## Illegal words (R95) -/

/-- The opcodes without a command, where B must be 0. -/
theorem decodeOpcode_illegal_iff {opc : Byte} (h5 : opc ≠ 5) :
    (∃ why, decodeOpcode opc = .illegal why) ↔ 7 ≤ opc.toNat := by
  unfold decodeOpcode
  split_ifs <;> simp <;> bv_omega

theorem decode_illegal_iff (w : Word) :
    (∃ why, decode w = .illegal why) ↔
      rsvField w ≠ 0 ∨ (byteField w ≠ 0 ∧ opcField w ≠ 5) ∨ 7 ≤ (opcField w).toNat := by
  unfold decode
  by_cases hrsv : rsvField w = 0
  · rw [if_neg (not_not_intro hrsv)]
    by_cases hopc : opcField w = 5
    · rw [if_pos hopc]
      simp [hrsv, hopc]
    · rw [if_neg hopc]
      by_cases hbyte : byteField w = 0
      · rw [if_neg (not_not_intro hbyte), decodeOpcode_illegal_iff hopc]
        simp [hrsv, hbyte]
      · rw [if_pos hbyte]
        exact iff_of_true ⟨_, rfl⟩ (.inr (.inl ⟨hbyte, hopc⟩))
  · rw [if_pos hrsv]
    exact iff_of_true ⟨_, rfl⟩ (.inl hrsv)

theorem toNat_rsvField (w : Word) : (rsvField w).toNat = w.toNat / 2 ^ 16 := by
  rw [rsvField, BitVec.extractLsb'_toNat, Nat.shiftRight_eq_div_pow]
  omega

theorem toNat_byteField (w : Word) : (byteField w).toNat = w.toNat / 2 ^ 8 % 2 ^ 8 := by
  rw [byteField, BitVec.extractLsb'_toNat, Nat.shiftRight_eq_div_pow]

theorem toNat_opcField (w : Word) : (opcField w).toNat = w.toNat % 2 ^ 8 := by
  rw [opcField, BitVec.extractLsb'_toNat, Nat.shiftRight_zero]

/-- Settles O4: the three reasons of the decoder, field by field in arithmetic. -/
theorem illegalWordsAreTheReservedOnes : Obligations.IllegalWordsAreTheReservedOnes := by
  intro w
  rw [decode_illegal_iff, ← toNat_rsvField, ← toNat_byteField, ← toNat_opcField]
  simp only [ne_eq, ← BitVec.toNat_inj]
  exact Iff.rfl

end Sys2Proof
end

section
/-! The commands: NOP and ACK (O22), the message commands (O23, O24); every command answers its whole effect or an error
(O27), and what it leaves unchanged (O28). -/

namespace Sys2Proof.Machine

/-! ## Single commands -/

/-- Settles O22: the arms of NOP and ACK. -/
theorem nopAndAckComplete : Obligations.NopAndAckComplete := fun _ => ⟨rfl, rfl⟩

/-- The index of R182 as the spec writes it: XOR first, then the low byte. -/
theorem updateIndex_eq_setWidth (C : CrcConfig) (acc : Word) (b : Byte) :
    updateIndex C acc b =
      ((acc >>> (C.width.toNat - 8)) ^^^ (reflectByte C.reflectInput b).setWidth 64).setWidth 8 := by
  rw [BitVec.setWidth_xor, BitVec.setWidth_setWidth_of_le _ (by decide), BitVec.setWidth_eq, updateIndex]

/-- Settles O23: an idle block with a table answers `updatedAcc`. -/
theorem crcUpdateFoldsOneByte : Obligations.CrcUpdateFoldsOneByte := by
  intro s b hidle hv W bb x t tn
  have hacc : updatedAcc s b = ((s.acc <<< 8) &&& widthMask W) ^^^ tn := by
    rw [updatedAcc, updateIndex_eq_setWidth]
    rfl
  rw [exec_crcUpdate_of_ready hidle hv, hacc]

/-- Settles O24: an idle block with a table answers the effects of both commands. -/
theorem crcInitAndCrcFinalComplete : Obligations.CrcInitAndCrcFinalComplete := fun _ hidle hv =>
  ⟨exec_crcInit_of_ready hidle hv, exec_crcFinal_of_ready hidle hv⟩

theorem exec_abort_of_busy {s : State} (hbusy : s.phase ≠ .idle) : exec .abort s = .next (abortGeneration s) := by
  simp [exec, execAbort, (busy_eq_true s).2 hbusy]

theorem exec_abort_of_idle {s : State} (hidle : s.phase = .idle) : exec .abort s = .next s := by
  simp [exec, execAbort, (busy_eq_false s).2 hidle]

/-! ## All or nothing -/

/-- The whole effect of each command (R143, R145, R181 to R183, R210, R211). -/
def commandEffect (i : Instr) (s : State) : State :=
  match i with
  | .nop => s
  | .generate => acceptGenerate s
  | .abort => if s.phase = .idle then s else abortGeneration s
  | .ack => acknowledge s
  | .crcInit => { s with acc := s.act.initialRemainder }
  | .crcUpdate b => { s with acc := updatedAcc s b }
  | .crcFinal => { s with result := finishedCrc s }

/-- Every command is refused with an error, which NOP, ABORT and ACK never are, or has its whole effect (R214). -/
theorem exec_cases {i : Instr} {s t : State} (h : exec i s = .next t) :
    ((i ≠ .nop ∧ i ≠ .abort ∧ i ≠ .ack) ∧ Raises s t) ∨ t = commandEffect i s := by
  cases i with
  | nop => exact .inr (execNop_cases h)
  | generate =>
    obtain ⟨-, hr⟩ | ⟨-, -, ht⟩ := execGenerate_cases h
    · exact .inl ⟨by decide, hr⟩
    · exact .inr ht
  | abort =>
    obtain ⟨hidle, ht⟩ | ⟨hbusy, ht⟩ := execAbort_cases h
    · exact .inr (ht.trans (if_pos hidle).symm)
    · exact .inr (ht.trans (if_neg hbusy).symm)
  | ack => exact .inr (execAck_cases h)
  | crcInit =>
    obtain ⟨-, hr⟩ | ⟨-, -, ht⟩ := execCrcInit_cases h
    · exact .inl ⟨by decide, hr⟩
    · exact .inr ht
  | crcUpdate b =>
    obtain ⟨-, hr⟩ | ⟨-, -, ht⟩ := execCrcUpdate_cases h
    · exact .inl ⟨⟨nofun, nofun, nofun⟩, hr⟩
    · exact .inr ht
  | crcFinal =>
    obtain ⟨-, hr⟩ | ⟨-, -, ht⟩ := execCrcFinal_cases h
    · exact .inl ⟨by decide, hr⟩
    · exact .inr ht

theorem exec_message_total {i : Instr} (hi : i = .crcInit ∨ (∃ b, i = .crcUpdate b) ∨ i = .crcFinal) (s : State) :
    ∃ t, exec i s = .next t := by
  obtain ⟨-, hr⟩ | ⟨-, -, hr⟩ | ⟨hidle, hv, -⟩ := messageRefusal_cases s
  · exact ⟨_, exec_message_of_refusal hi hr⟩
  · exact ⟨_, exec_message_of_refusal hi hr⟩
  · obtain ⟨t, hx, -⟩ := exec_message_of_ready hi hidle hv
    exact ⟨t, hx⟩

theorem exec_generate_total (s : State) : ∃ t, exec .generate s = .next t := by
  by_cases hidle : s.phase = .idle
  · cases hc : checkConfig s.wMax s.pending with
    | some e => exact ⟨_, exec_generate_of_failed_check hidle hc⟩
    | none => exact ⟨_, exec_generate_of_valid hidle (valid_of_checkConfig hc)⟩
  · exact ⟨_, exec_generate_of_busy hidle⟩

/-- No command stops the block. -/
theorem exec_total (i : Instr) (s : State) : ∃ t, exec i s = .next t := by
  cases i with
  | nop => exact ⟨s, rfl⟩
  | generate => exact exec_generate_total s
  | abort => exact ⟨_, rfl⟩
  | ack => exact ⟨acknowledge s, rfl⟩
  | crcInit => exact exec_message_total (.inl rfl) s
  | crcUpdate b => exact exec_message_total (.inr (.inl ⟨b, rfl⟩)) s
  | crcFinal => exact exec_message_total (.inr (.inr rfl)) s

/-- Settles O27: the answer of `exec_total`, by its two shapes. -/
theorem commandsAreAllOrNothing : Obligations.CommandsAreAllOrNothing := by
  intro i s
  obtain ⟨t, hx⟩ := exec_total i s
  obtain ⟨-, c, hlow, -, rfl⟩ | rfl := exec_cases hx
  · refine .inl ⟨c.code, fun h0 => ?_, hx⟩
    rw [h0] at hlow
    exact absurd hlow (by decide)
  · right
    rw [hx]
    cases i <;> rfl

/-! ## Frames -/

theorem commandEffect_abort (s : State) :
    commandEffect .abort s = s ∨ commandEffect .abort s = abortGeneration s := ite_eq_or_eq _ _ _

/-- The registers and fields that no command writes. -/
theorem commandEffect_keeps (i : Instr) (s : State) :
    (commandEffect i s).pending = s.pending ∧ (commandEffect i s).doneIe = s.doneIe ∧
      (commandEffect i s).errIe = s.errIe ∧ (commandEffect i s).wMax = s.wMax ∧
      (commandEffect i s).powerLost = s.powerLost ∧ (commandEffect i s).inputs = s.inputs ∧
      (commandEffect i s).rsp = s.rsp := by
  cases i with
  | abort => obtain h | h := commandEffect_abort s <;> rw [h] <;> exact ⟨rfl, rfl, rfl, rfl, rfl, rfl, rfl⟩
  | _ => exact ⟨rfl, rfl, rfl, rfl, rfl, rfl, rfl⟩

theorem commandEffect_keeps_table {i : Instr} {s : State} (h : i ≠ .abort ∨ s.phase = .idle) :
    (commandEffect i s).table = s.table ∧ (commandEffect i s).draws = s.draws := by
  cases i with
  | abort =>
    obtain hi | hidle := h
    · exact absurd rfl hi
    · rw [commandEffect, if_pos hidle]
      exact ⟨rfl, rfl⟩
  | _ => exact ⟨rfl, rfl⟩

theorem commandEffect_keeps_latched {i : Instr} {s : State} (h : i ≠ .generate) :
    (commandEffect i s).act = s.act ∧ (commandEffect i s).valid = s.valid ∧ (commandEffect i s).idx = s.idx ∧
      (commandEffect i s).bitcnt = s.bitcnt ∧ (commandEffect i s).rem = s.rem := by
  cases i with
  | generate => exact absurd rfl h
  | abort => obtain h | h := commandEffect_abort s <;> rw [h] <;> exact ⟨rfl, rfl, rfl, rfl, rfl⟩
  | _ => exact ⟨rfl, rfl, rfl, rfl, rfl⟩

/-- The registers that GENERATE and one more kind of command write. -/
theorem commandEffect_keeps_shared {i : Instr} {s : State} (h : i ≠ .generate) :
    (i ≠ .abort → (commandEffect i s).phase = s.phase) ∧ (i ≠ .ack → (commandEffect i s).done = s.done) ∧
      (i ≠ .crcInit → (∀ b, i ≠ .crcUpdate b) → (commandEffect i s).acc = s.acc) ∧
      (i ≠ .crcFinal → (commandEffect i s).result = s.result) := by
  cases i with
  | nop => exact ⟨fun _ => rfl, fun _ => rfl, fun _ _ => rfl, fun _ => rfl⟩
  | generate => exact absurd rfl h
  | abort =>
    refine ⟨fun ha => absurd rfl ha, ?_⟩
    obtain h | h := commandEffect_abort s <;> rw [h] <;> exact ⟨fun _ => rfl, fun _ _ => rfl, fun _ => rfl⟩
  | ack => exact ⟨fun _ => rfl, fun ha => absurd rfl ha, fun _ _ => rfl, fun _ => rfl⟩
  | crcInit => exact ⟨fun _ => rfl, fun _ => rfl, fun ha => absurd rfl ha, fun _ => rfl⟩
  | crcUpdate b => exact ⟨fun _ => rfl, fun _ => rfl, fun _ ha => absurd rfl (ha b), fun _ => rfl⟩
  | crcFinal => exact ⟨fun _ => rfl, fun _ => rfl, fun _ _ => rfl, fun ha => absurd rfl ha⟩

theorem commandEffect_keeps_error {i : Instr} {s : State} (h : i = .nop ∨ i = .abort) :
    (commandEffect i s).err = s.err ∧ (commandEffect i s).errCode = s.errCode := by
  obtain rfl | rfl := h
  · exact ⟨rfl, rfl⟩
  · obtain h | h := commandEffect_abort s <;> rw [h] <;> exact ⟨rfl, rfl⟩

/-- Settles O28: an error touches ERR and ERR_CODE alone; the whole effects field by field. -/
theorem commandFrames : Obligations.CommandFrames := by
  intro i s t hx
  obtain ⟨⟨hnop, habort, -⟩, c, -, -, rfl⟩ | rfl := exec_cases hx
  · exact ⟨fun _ => ⟨raiseError_tableRead c s, rfl, rfl⟩, rfl, rfl, rfl, rfl, rfl, rfl, rfl,
      fun _ => ⟨rfl, rfl, rfl, rfl, rfl⟩, fun _ _ => rfl, fun _ _ => rfl, fun _ _ _ => rfl, fun _ _ => rfl,
      fun h => absurd h (not_or.2 ⟨hnop, habort⟩)⟩
  · obtain ⟨hpending, hdoneIe, herrIe, hmax, hpower, hinputs, hrsp⟩ := commandEffect_keeps i s
    have htable : i ≠ .abort ∨ s.phase = .idle → (∀ d : Byte, (commandEffect i s).tableRead d = s.tableRead d) ∧
        (commandEffect i s).table = s.table ∧ (commandEffect i s).draws = s.draws := fun h => by
      obtain ⟨htable, hdraws⟩ := commandEffect_keeps_table h
      exact ⟨tableRead_congr htable hmax hdraws, htable, hdraws⟩
    by_cases hg : i = .generate
    · exact ⟨htable, hpending, hdoneIe, herrIe, hmax, hpower, hinputs, hrsp, fun h => absurd hg h, fun h => absurd hg h,
        fun h => absurd hg h, fun h => absurd hg h, fun h => absurd hg h, commandEffect_keeps_error⟩
    · obtain ⟨hphase, hdone, hacc, hresult⟩ := commandEffect_keeps_shared hg
      exact ⟨htable, hpending, hdoneIe, herrIe, hmax, hpower, hinputs, hrsp, commandEffect_keeps_latched,
        fun _ => hphase, fun _ => hdone, fun _ => hacc, fun _ => hresult, commandEffect_keeps_error⟩

end Sys2Proof.Machine
end

section
/-! A step of the machine: what an access answers by its route, that no step stops the block (O29), a cycle is the
sequencer's step and then the access (O30), a write to CMD runs its command (O31), and ABORT (O16). -/

namespace Sys2Proof.Machine

/-! ## Accesses by their route -/

theorem accessWith_register_write (run : Instr → State → Result State) {a : Access} {r : Reg} (hw : a.write = true)
    (hr : writeRoute a.addr a.size = .register r) (hne : r ≠ .cmd) (s : State) :
    accessWith run a s = .next (respond .okayWrite (writeRegister r a.wdata s)) := by
  cases r with
  | cmd => exact absurd rfl hne
  | _ => simp only [accessWith, hw, memWriteWith, hr, if_true]

theorem accessWith_command (run : Instr → State → Result State) {a : Access} (hw : a.write = true)
    (hr : writeRoute a.addr a.size = .register .cmd) (s : State) :
    accessWith run a s = onNext (commandWith run a.wdata s) (respond .okayWrite) := by
  simp only [accessWith, hw, memWriteWith, hr, if_true]

theorem commandWith_of_command (run : Instr → State → Result State) {w : Word} {i : Instr} (hd : decode w = .command i)
    (s : State) : commandWith run w s = run i s := by
  rw [commandWith, hd]

theorem commandWith_of_illegal (run : Instr → State → Result State) {w : Word} {why : Illegal}
    (hd : decode w = .illegal why) (s : State) : commandWith run w s = .next (raiseError .illegalCmd s) := by
  rw [commandWith, hd]

/-! ## Every step answers a next state -/

theorem commandWith_total (w : Word) (s : State) : ∃ t, commandWith exec w s = .next t := by
  cases hd : decode w with
  | command i => exact commandWith_of_command exec hd s ▸ exec_total i s
  | illegal why => exact ⟨_, commandWith_of_illegal exec hd s⟩

theorem accessWith_total (a : Access) (s : State) : ∃ t, accessWith exec a s = .next t := by
  cases hw : a.write with
  | false => exact ⟨_, accessWith_read exec hw s⟩
  | true =>
    cases hr : writeRoute a.addr a.size with
    | refuse r => exact ⟨_, accessWith_refused_write exec hw hr s⟩
    | register r =>
      by_cases hcmd : r = .cmd
      · obtain ⟨t, ht⟩ := commandWith_total a.wdata s
        exact ⟨_, by rw [accessWith_command exec hw (hcmd ▸ hr), ht, onNext_next]⟩
      · exact ⟨_, accessWith_register_write exec hw hr hcmd s⟩

theorem cycle_total (req : Option Access) (s : State) : ∃ t, cycleWith exec req s = .next t := by
  cases req with
  | none => exact ⟨_, rfl⟩
  | some a => exact accessWith_total a _

theorem step_total (s : State) : ∃ t, step s = .next t := by
  rw [step_eq]
  cases nextEvent s with
  | cycle req =>
    rw [eventWith]
    split
    · exact ⟨_, rfl⟩
    · exact cycle_total req _
  | resetLow req => exact ⟨_, rfl⟩
  | clockStopped => exact ⟨_, rfl⟩
  | powerRemoved => exact ⟨_, rfl⟩

/-! ## What every cycle leaves unchanged -/

theorem cycle_keeps {req : Option Access} {s t : State} (h : cycleWith exec req s = .next t) :
    t.wMax = s.wMax ∧ t.powerLost = s.powerLost ∧ t.inputs = s.inputs := by
  obtain ⟨-, rfl⟩ | ⟨r, rfl, -⟩ | ⟨r, v, -, -, rfl, -⟩ | ⟨-, i, u, -, -, hx, rfl⟩ | ⟨-, -, -, -, rfl⟩ := cycle_cases h
  · simp
  · simp
  · simp
  · obtain ⟨-, -, -, -, hmax, hpower, hinputs, -⟩ := commandFrames i _ u hx
    simp [hmax, hpower, hinputs]
  · simp

theorem step_wMax {s t : State} (h : step s = .next t) : t.wMax = s.wMax := by
  obtain ⟨req, -, rfl⟩ | ⟨req, -, rfl⟩ | ⟨-, -, rfl⟩ | ⟨req, -, -, hc⟩ := step_cases h
  · rfl
  · rfl
  · rfl
  · obtain ⟨hmax, -⟩ := cycle_keeps hc
    exact hmax

/-- Settles O29: commands by `exec_total`, steps by their event. -/
theorem nothingStopsTheBlock : Obligations.NothingStopsTheBlock := by
  refine ⟨exec_total, fun s => ?_⟩
  obtain ⟨t, ht⟩ := step_total s
  exact ⟨t, ht, step_wMax ht⟩

/-! ## Cycles -/

/-- Settles O30: the two forms of a powered cycle. -/
theorem cycleIsSequencerThenAccess : Obligations.CycleIsSequencerThenAccess := fun _ hpow =>
  ⟨step_cycle hpow, fun _ => step_of_access hpow⟩

/-- A word placed by `withFetchWord` is not cut: it has 64 bits. -/
theorem tableWord_toNat (w : Word) : tableWord 64 w.toNat = w := by
  rw [tableWord, Nat.mod_eq_of_lt w.isLt, BitVec.ofNat_toNat, BitVec.setWidth_eq]

theorem step_of_cmdWrite {s : State} {w : Word} (hpow : s.powerLost = false)
    (he : nextEvent s = .cycle (some (cmdWrite w))) :
    step s = onNext (commandWith exec w (afterSequencer s)) (respond .okayWrite) := by
  rw [step_of_access hpow he, accessWith_cmdWrite]

/-- Settles O31: the access is `cmdWrite w`, and the word placed first is the one written. -/
theorem cmdWriteRunsTheDecodedCommand : Obligations.CmdWriteRunsTheDecodedCommand := by
  refine ⟨fun s w hpow he => ⟨fun i hd => ?_, fun why hd => ?_⟩, fun s w i hpow hd => ?_⟩
  · rw [step_of_cmdWrite hpow he, commandWith_of_command exec hd]
    rfl
  · rw [step_of_cmdWrite hpow he, commandWith_of_illegal exec hd]
    rfl
  · have he : nextEvent (s.withFetchWord 64 w.toNat) = .cycle (some (cmdWrite w)) := by
      rw [State.withFetchWord, nextEvent_presentFirst, tableWord_toNat]
    rw [step_of_cmdWrite (s := s.withFetchWord 64 w.toNat) hpow he, commandWith_of_command exec hd]
    rfl

/-- Settles O16: ABORT by PHASE, its word, and the last STORE, after which the block is idle. -/
theorem abortStopsARunningGeneration : Obligations.AbortStopsARunningGeneration := by
  refine ⟨fun _ => exec_abort_of_busy, fun _ => exec_abort_of_idle, by decide, fun s hpow he hp hi => ?_⟩
  obtain ⟨hidle, hv, hdone⟩ := afterSequencer_of_last hp hi
  exact ⟨_, step_of_command hpow he (decode_encode .abort) (exec_abort_of_idle hidle), hv, hdone, hidle⟩

end Sys2Proof.Machine
end

section
/-! The host port: the register region (O38), the table window (O39), reads and repeated writes (O40), and the writes that
take effect (O41). -/

namespace Sys2Proof.Machine

/-! ## The register region (R64) -/

@[simp] theorem admitted_regOffset (r : Reg) : admitted (regOffset r) 8#4 = true := by cases r <;> decide

@[simp] theorem inTableWindow_regOffset (r : Reg) : inTableWindow (regOffset r) = false := by cases r <;> decide

theorem regOffset_le (r : Reg) : (regOffset r).toNat ≤ 0x048 := by cases r <;> decide

theorem memRead_regOffset (r : Reg) (s : State) : memRead (regOffset r) 8#4 s = .okayRead (readRegister r s) := by
  simp [memRead]

theorem writeRoute_regOffset (r : Reg) :
    writeRoute (regOffset r) 8#4 = if registerWritable r then .register r else .refuse .refusedWrite := by
  simp [writeRoute]

/-- An aligned offset between the last register and the table window is reserved. -/
theorem reserved_offset {a : BitVec 12} (hlow : 0x050 ≤ a.toNat) (hhigh : a.toNat ≤ 0x7F8) (halign : a.toNat % 8 = 0) :
    admitted a 8#4 = true ∧ inTableWindow a = false ∧ regAt a = none := by
  refine ⟨admitted_iff.2 ⟨rfl, halign⟩, by simp only [inTableWindow, decide_eq_false_iff_not]; omega, ?_⟩
  cases hr : regAt a with
  | none => rfl
  | some r =>
    have hle := regOffset_le r
    rw [← regAt_eq_some hr] at hle
    omega

theorem accessWith_reserved (run : Instr → State → Result State) {a : Access} (hsize : a.size = 8#4)
    (hlow : 0x050 ≤ a.addr.toNat) (hhigh : a.addr.toNat ≤ 0x7F8) (halign : a.addr.toNat % 8 = 0) (s : State) :
    accessWith run a s = .next (respond .refused s) := by
  obtain ⟨hadmitted, hwindow, hreg⟩ := reserved_offset hlow hhigh halign
  cases hw : a.write with
  | false =>
    have hread : memRead a.addr a.size s = .refused := by rw [hsize]; simp [memRead, hadmitted, hwindow, hreg]
    rw [accessWith_read run hw, hread]
  | true =>
    have hroute : writeRoute a.addr a.size = .refuse .refused := by rw [hsize]; simp [writeRoute, hadmitted, hwindow, hreg]
    exact accessWith_refused_write run hw hroute s

/-- A read that the port answers with `q` is that answer after the sequencer's step. -/
theorem step_of_read {s : State} {a : Access} {q : Response} (hpow : s.powerLost = false)
    (he : nextEvent s = .cycle (some a)) (hread : a.write = false) (hq : memRead a.addr a.size (afterSequencer s) = q) :
    step s = .next (respond q (afterSequencer s)) := by
  rw [step_of_access hpow he, accessWith_read exec hread, hq]

/-- Settles O38: reads, refused writes and reserved offsets, each by its answer. -/
theorem registerRegionAnswers : Obligations.RegisterRegionAnswers := by
  intro s v hpow u value
  refine ⟨fun r he => ?_, fun r hr he => ?_, fun a wr hlow hhigh halign he => ?_⟩
  · have hvalue : readRegister r u = value r := by cases r <;> rfl
    exact hvalue ▸ step_of_read hpow he rfl (memRead_regOffset r u)
  · have hro : registerWritable r = false := by obtain rfl | rfl | rfl | rfl := hr <;> rfl
    have hroute : writeRoute (regOffset r) 8#4 = .refuse .refusedWrite := by simp [writeRoute_regOffset, hro]
    exact ⟨none, (step_of_access hpow he).trans (accessWith_refused_write exec rfl hroute u)⟩
  · exact (step_of_access hpow he).trans (accessWith_reserved exec rfl hlow hhigh halign u)

/-! ## The table window (R65) -/

theorem toNat_tableOffset (i : Byte) : (tableOffset i).toNat = 0x800 + 8 * i.toNat := by
  have hoffset : tableOffset i = 0x800#12 + i.setWidth 12 <<< 3 := rfl
  simp only [hoffset, BitVec.toNat_add, BitVec.toNat_shiftLeft, BitVec.toNat_setWidth, BitVec.toNat_ofNat,
    Nat.shiftLeft_eq]
  omega

theorem tableOffset_eq_ofNat (i : Byte) : tableOffset i = BitVec.ofNat 12 (0x800 + 8 * i.toNat) := by
  rw [← toNat_tableOffset, BitVec.ofNat_toNat, BitVec.setWidth_eq]

@[simp] theorem admitted_tableOffset (i : Byte) : admitted (tableOffset i) 8#4 = true := by
  rw [admitted_iff, toNat_tableOffset]
  exact ⟨rfl, by omega⟩

@[simp] theorem inTableWindow_tableOffset (i : Byte) : inTableWindow (tableOffset i) = true := by
  simp [inTableWindow, toNat_tableOffset]

@[simp] theorem tableIndex_tableOffset (i : Byte) : tableIndex (tableOffset i) = i := by
  apply BitVec.eq_of_toNat_eq
  simp only [tableIndex, BitVec.toNat_setWidth, BitVec.toNat_ushiftRight, BitVec.toNat_sub, toNat_tableOffset,
    BitVec.ofNat_eq_ofNat, BitVec.toNat_ofNat, Nat.shiftRight_eq_div_pow]
  omega

theorem memRead_tableOffset (i : Byte) (s : State) :
    memRead (tableOffset i) 8#4 s = if s.valid then .okayRead (s.tableRead i) else .refused := by
  simp [memRead]

theorem writeRoute_tableOffset (i : Byte) : writeRoute (tableOffset i) 8#4 = .refuse .refusedWrite := by
  simp [writeRoute]

/-- Settles O39: the read by VALID, and the route of the write. -/
theorem tableWindowAnswers : Obligations.TableWindowAnswers := by
  intro s i v hpow u a
  have ha : a = tableOffset i := (tableOffset_eq_ofNat i).symm
  rw [ha]
  refine ⟨fun he => ?_, fun he => ?_⟩
  · have hread := memRead_tableOffset i u
    exact ⟨fun hv => step_of_read hpow he rfl (hread.trans (if_pos hv)),
      fun hv => step_of_read hpow he rfl (hread.trans (if_neg (Bool.eq_false_iff.1 hv)))⟩
  · exact ⟨none, (step_of_access hpow he).trans (accessWith_refused_write exec rfl (writeRoute_tableOffset i) u)⟩

/-! ## Reads and repeated writes (R66) -/

/-- No read looks at the answer recorded last. -/
theorem memRead_rsp (a : BitVec 12) (n : BitVec 4) (r : Option Response) (s : State) :
    memRead a n { s with rsp := r } = memRead a n s := rfl

theorem writeRegister_writeRegister (r : Reg) (v : Word) (s : State) :
    writeRegister r v (writeRegister r v s) = writeRegister r v s := by
  cases r <;> rfl

/-- Settles O40: a read records its answer, which no later read sees; a second write stores the same bits. -/
theorem readsChangeNothing : Obligations.ReadsChangeNothing := by
  refine ⟨fun s a hpow he hread => ⟨_, step_of_read hpow he hread rfl, memRead_rsp _ _ _ _⟩,
    fun r v s _ => writeRegister_writeRegister r v s⟩

/-! ## Writes that take effect (R215) -/

theorem step_of_register_write {s : State} {r : Reg} {v : Word} (hpow : s.powerLost = false)
    (hr : registerWritable r = true) (hne : r ≠ .cmd)
    (he : nextEvent s = .cycle (some { write := true, addr := regOffset r, size := 8, wdata := v })) :
    step s = .next (respond .okayWrite (writeRegister r v (afterSequencer s))) := by
  have hroute : writeRoute (regOffset r) 8#4 = .register r := by simp [writeRoute_regOffset, hr]
  exact (step_of_access hpow he).trans (accessWith_register_write exec rfl hroute hne _)

/-- Settles O41: the five registers take writes, and `writeRegister` is the effect of each. -/
theorem registerWritesTakeEffect : Obligations.RegisterWritesTakeEffect := fun _ _ hpow =>
  ⟨step_of_register_write (r := .cfg) hpow rfl nofun, step_of_register_write (r := .poly) hpow rfl nofun,
    step_of_register_write (r := .init) hpow rfl nofun, step_of_register_write (r := .xorout) hpow rfl nofun,
    step_of_register_write (r := .irqEn) hpow rfl nofun⟩

end Sys2Proof.Machine
end

section
/-! The two invariants of every step, O54 and O55 (the range invariant is settled by its step lemma above), that reset meets
them (O53), and what a table read therefore returns (O49). -/

namespace Sys2Proof.Machine

/-- Settles O54: `whilePowered_inRange_step`. -/
theorem stepsKeepRegistersInRange : Obligations.StepsKeepRegistersInRange := fun _ _ => whilePowered_inRange_step

/-! ## `Built` reads the progress of a generation and nothing else -/

/-- `t` has the latched configuration, VALID, the sequencer's registers and TABLE of `s`. -/
structure SameProgress (s t : State) : Prop where
  act : t.act = s.act
  valid : t.valid = s.valid
  phase : t.phase = s.phase
  idx : t.idx = s.idx
  bitcnt : t.bitcnt = s.bitcnt
  rem : t.rem = s.rem
  table : ∀ d, t.tableRead d = s.tableRead d

theorem sameProgress_takeEvent (s : State) : SameProgress s (takeEvent s) := ⟨rfl, rfl, rfl, rfl, rfl, rfl, fun _ => rfl⟩

theorem sameProgress_silent (s : State) : SameProgress s (silent s) := ⟨rfl, rfl, rfl, rfl, rfl, rfl, fun _ => rfl⟩

theorem sameProgress_respond (r : Response) (s : State) : SameProgress s (respond r s) :=
  ⟨rfl, rfl, rfl, rfl, rfl, rfl, fun _ => rfl⟩

theorem sameProgress_raiseError (c : ErrCode) (s : State) : SameProgress s (raiseError c s) :=
  ⟨rfl, rfl, rfl, rfl, rfl, rfl, fun _ => rfl⟩

theorem sameProgress_writeRegister (r : Reg) (v : Word) (s : State) : SameProgress s (writeRegister r v s) :=
  ⟨by simp, by simp, by simp, by simp, by simp, by simp, by simp⟩

theorem SameProgress.trans {s t u : State} (h : SameProgress s t) (h' : SameProgress t u) : SameProgress s u :=
  ⟨h'.act.trans h.act, h'.valid.trans h.valid, h'.phase.trans h.phase, h'.idx.trans h.idx, h'.bitcnt.trans h.bitcnt,
    h'.rem.trans h.rem, fun d => (h'.table d).trans (h.table d)⟩

/-- A command other than GENERATE and ABORT leaves the progress alone (R145, R214). -/
theorem sameProgress_exec {i : Instr} {s t : State} (hg : i ≠ .generate) (ha : i ≠ .abort)
    (hx : exec i s = .next t) : SameProgress s t := by
  obtain ⟨htable, -, -, -, -, -, -, -, hlatched, hphase, -⟩ := commandFrames i s t hx
  obtain ⟨hread, -, -⟩ := htable (.inl ha)
  obtain ⟨hact, hvalid, hidx, hbitcnt, hrem⟩ := hlatched hg
  exact ⟨hact, hvalid, hphase hg ha, hidx, hbitcnt, hrem, hread⟩

theorem Built.congr {s t : State} (h : Built s) (hst : SameProgress s t) : Built t := by
  have hremainder (n : Nat) : remainderAfter n t = remainderAfter n s := by
    simp only [remainderAfter, hst.act, hst.idx]
  constructor
  · simpa only [hst.valid, hst.phase, hst.table, hst.act] using h.whole
  · simpa only [hst.phase, hst.valid, hst.idx, hst.table, hst.act] using h.below
  · simpa only [hst.phase, hst.bitcnt, hst.rem, hremainder] using h.dividing
  · simpa only [hst.phase, hst.bitcnt, hst.rem, hremainder] using h.divided

/-! ## Commands, cycles and steps keep `Built` -/

/-- An idle block without a table has nothing built (R44, R145). -/
theorem built_of_idle {s : State} (hidle : s.phase = .idle) (hv : s.valid = false) : Built s where
  whole h := nomatch hv.symm.trans h
  below h := absurd hidle h
  dividing h := nomatch hidle.symm.trans h
  divided h := nomatch hidle.symm.trans h

theorem built_exec {i : Instr} {s t : State} (h : Built s) (hx : exec i s = .next t) : Built t := by
  by_cases hg : i = .generate
  · subst hg
    obtain ⟨-, c, -, -, rfl⟩ | ⟨-, -, rfl⟩ := execGenerate_cases hx
    · exact h.congr (sameProgress_raiseError c s)
    · exact built_acceptGenerate s
  by_cases ha : i = .abort
  · subst ha
    obtain ⟨-, rfl⟩ | ⟨hbusy, rfl⟩ := execAbort_cases hx
    · exact h
    · obtain ⟨hv, -⟩ := h.below hbusy
      exact built_of_idle rfl hv
  exact h.congr (sameProgress_exec hg ha hx)

theorem built_cycle {req : Option Access} {s t : State} (h : Built s) (hc : cycleWith exec req s = .next t) :
    Built t := by
  have hseq := built_sequencerStep h
  obtain ⟨-, rfl⟩ | ⟨r, rfl, -⟩ | ⟨r, v, -, -, rfl, -⟩ | ⟨-, i, u, -, -, hx, rfl⟩ | ⟨-, -, -, -, rfl⟩ := cycle_cases hc
  · exact hseq.congr (sameProgress_silent _)
  · exact hseq.congr (sameProgress_respond r _)
  · exact hseq.congr ((sameProgress_writeRegister r v _).trans (sameProgress_respond _ _))
  · exact (built_exec hseq hx).congr (sameProgress_respond _ u)
  · exact hseq.congr ((sameProgress_raiseError _ _).trans (sameProgress_respond _ _))

/-- Settles O55, by the event of the step: reset builds nothing, a stopped clock leaves the progress, a cycle is
`built_cycle`. -/
theorem stepsKeepTheTableCorrect : Obligations.StepsKeepTheTableCorrect := by
  intro s t h hs hpow
  obtain ⟨req, -, rfl⟩ | ⟨req, -, rfl⟩ | ⟨hp, -, rfl⟩ | ⟨req, hp, -, hc⟩ := step_cases hs
  · exact built_of_idle rfl rfl
  · simp at hpow
  · exact (h hp).congr ((sameProgress_takeEvent s).trans (sameProgress_silent _))
  · exact built_cycle ((h hp).congr (sameProgress_takeEvent s)) hc

/-- Settles O53: the reset state is idle, without a table, and all its registers fit. -/
theorem resetMeetsTheInvariants : Obligations.ResetMeetsTheInvariants := fun m inputs =>
  ⟨inRange_resetWith m 0 inputs none, built_of_idle rfl rfl⟩

/-! ## Table reads -/

theorem built_afterSequencer {s : State} (h : Built s) : Built (afterSequencer s) :=
  built_sequencerStep (h.congr (sameProgress_takeEvent s))

theorem stmtAccess_rdt (i : Byte) :
    stmtAccess (.rdt i.toNat) = { write := false, addr := tableOffset i, size := 8, wdata := 0 } := by
  rw [stmtAccess, BitVec.ofNat_toNat, BitVec.setWidth_eq]

/-- Settles O49: the answer is OKAY only while VALID = 1, and then the whole table is built. -/
theorem tableReadsReturnTheBuiltTable : Obligations.TableReadsReturnTheBuiltTable := by
  intro s t i v hpow hbuilt he hs hrsp
  rw [stmtAccess_rdt] at he
  cases (step_of_read hpow he rfl (memRead_tableOffset i (afterSequencer s))).symm.trans hs
  rw [respond_rsp] at hrsp
  cases hv : (afterSequencer s).valid with
  | false =>
    rw [hv] at hrsp
    cases hrsp
  | true =>
    rw [hv] at hrsp
    cases hrsp
    obtain ⟨-, htable⟩ := (built_afterSequencer hbuilt).whole hv
    exact ⟨hv, htable i, htable⟩

end Sys2Proof.Machine
end

section
/-! The timetable of a generation (R276) against every host that does not stop it: the progress after `k` cycles (O20), the
completion in cycle 2560 (O21), and WAIT_IDLE, which reads STATUS until then (O59). -/

namespace Sys2Proof.Machine

/-! ## Runs -/

theorem run_succ_of_next {s u : State} (h : step s = .next u) (n : Nat) :
    Sys2Proof.core.run (n + 1) s = Sys2Proof.core.run n u := by
  simp [Host.Core.run, Sys2Proof.core, h]

theorem run_add_of_next {n : Nat} {s t : State} (h : Sys2Proof.core.run n s = .next t) (m : Nat) :
    Sys2Proof.core.run (n + m) s = Sys2Proof.core.run m t := by
  induction n generalizing s with
  | zero =>
    cases h
    rw [zero_add]
  | succ n ih =>
    obtain ⟨u, hu⟩ := step_total s
    rw [run_succ_of_next hu] at h
    rw [Nat.add_right_comm, run_succ_of_next hu, ih h]

theorem run_one (s : State) : Sys2Proof.core.run 1 s = step s := by
  obtain ⟨t, ht⟩ := step_total s
  rw [run_succ_of_next ht, ht]
  rfl

/-! ## Cycles that do not disturb a generation -/

/-- A cycle after its sequencer's step: it runs the command it issues, or leaves the progress, ACC and RESULT. -/
theorem cycle_command_cases {req : Option Access} {s t : State} (hc : cycleWith exec req s = .next t) :
    (∃ i u, issuedCommand (.cycle req) = some i ∧ exec i (sequencerStep s) = .next u ∧ t = respond .okayWrite u) ∨
      (issuedCommand (.cycle req) = none ∧ SameProgress (sequencerStep s) t ∧ t.acc = s.acc ∧ t.result = s.result) := by
  obtain ⟨rfl, rfl⟩ | ⟨r, rfl, hw⟩ | ⟨r, v, -, -, rfl, hw⟩ | ⟨w, i, u, hw, hd, hx, rfl⟩ | ⟨w, why, hw, hd, rfl⟩ :=
    cycle_cases hc
  · exact .inr ⟨rfl, sameProgress_silent _, by simp, by simp⟩
  · exact .inr ⟨issuedCommand_eq_none_of_unwritten hw, sameProgress_respond r _, by simp, by simp⟩
  · exact .inr ⟨issuedCommand_eq_none_of_unwritten hw,
      (sameProgress_writeRegister r v _).trans (sameProgress_respond _ _), by simp, by simp⟩
  · exact .inl ⟨i, u, issuedCommand_eq_some hw hd, hx, rfl⟩
  · exact .inr ⟨issuedCommand_eq_none_of_illegal hw hd,
      (sameProgress_raiseError _ _).trans (sameProgress_respond _ _), by simp, by simp⟩

/-- While a generation runs, GENERATE is refused with BUSY, so ABORT alone changes its progress (R144, R155). -/
theorem sameProgress_exec_of_busy {i : Instr} {s t : State} (hbusy : s.phase ≠ .idle) (ha : i ≠ .abort)
    (hx : exec i s = .next t) : SameProgress s t := by
  by_cases hg : i = .generate
  · subst hg
    cases (exec_generate_of_busy hbusy).symm.trans hx
    exact sameProgress_raiseError .busy s
  · exact sameProgress_exec hg ha hx

theorem sameProgress_of_undisturbed {s t : State} (hpow : s.powerLost = false) (he : Undisturbed (nextEvent s))
    (hs : step s = .next t) (hbusy : (afterSequencer s).phase ≠ .idle) : SameProgress (afterSequencer s) t := by
  obtain ⟨⟨req, hreq⟩, hno⟩ := he
  rw [step_cycle hpow hreq] at hs
  rw [hreq] at hno
  obtain ⟨i, u, hi, hx, rfl⟩ | ⟨-, hsame, -⟩ := cycle_command_cases hs
  · have ha : i ≠ .abort := fun ha => hno (ha ▸ hi)
    exact (sameProgress_exec_of_busy hbusy ha hx).trans (sameProgress_respond _ u)
  · exact hsame

/-- A cycle that writes nothing to CMD leaves DONE too as the sequencer's step left it. -/
theorem sameProgress_of_quiet {s t : State} (hpow : s.powerLost = false) (he : Quiet (nextEvent s))
    (hs : step s = .next t) : SameProgress (afterSequencer s) t ∧ t.done = (afterSequencer s).done := by
  obtain ⟨⟨req, hreq⟩, hnone⟩ := he
  rw [step_cycle hpow hreq] at hs
  rw [hreq] at hnone
  have hissued := issuedCommand_eq_none_of_unwritten hnone
  obtain ⟨i, -, hi, -⟩ | ⟨-, hsame, -⟩ := cycle_command_cases hs
  · cases hissued.symm.trans hi
  refine ⟨hsame, ?_⟩
  obtain ⟨hclears, -⟩ | ⟨-, hdone⟩ := cycle_done hs
  · exact absurd (hissued ▸ hclears) (not_clearsDone_none _)
  · exact hdone

theorem step_of_cycle_keeps {s t : State} {req : Option Access} (hpow : s.powerLost = false)
    (he : nextEvent s = .cycle req) (hs : step s = .next t) : t.powerLost = false ∧ t.inputs = s.inputs.tail := by
  rw [step_cycle hpow he] at hs
  obtain ⟨-, hpower, hinputs⟩ := cycle_keeps hs
  exact ⟨hpower.trans hpow, hinputs⟩

/-! ## A running generation -/

/-- `n` cycles after the acceptance of a GENERATE that latched `C`. -/
structure Generating (C : CrcConfig) (n : Nat) (s : State) : Prop where
  powered : s.powerLost = false
  latched : s.act = C
  built : Built s
  taken : stepsTaken s = n
  /-- BITCNT keeps its 8 in LOAD, but for entry 0, where GENERATE cleared it. -/
  loadCount : s.phase = .load → s.idx ≠ 0 → s.bitcnt = 8

theorem generating_of_started {s : State} (hpow : s.powerLost = false) (hp : s.phase = .load) (hi : s.idx = 0)
    (hv : s.valid = false) : Generating s.act 0 s where
  powered := hpow
  latched := rfl
  built :=
    { whole := fun h => nomatch hv.symm.trans h
      below := fun _ => ⟨hv, fun d hd => by rw [hi] at hd; exact absurd hd (Nat.not_lt_zero _)⟩
      dividing := fun h => nomatch hp.symm.trans h
      divided := fun h => nomatch hp.symm.trans h }
  taken := by rw [stepsTaken_of_load hp, hi]; rfl
  loadCount := fun _ h => absurd hi h

theorem stepsTaken_congr {s t : State} (h : SameProgress s t) : stepsTaken t = stepsTaken s := by
  simp only [stepsTaken, h.phase, h.idx, h.bitcnt]

theorem Generating.congr {C : CrcConfig} {n : Nat} {s t : State} (h : Generating C n s) (hst : SameProgress s t)
    (hpow : t.powerLost = false) : Generating C n t where
  powered := hpow
  latched := hst.act.trans h.latched
  built := h.built.congr hst
  taken := (stepsTaken_congr hst).trans h.taken
  loadCount := by simpa only [hst.phase, hst.idx, hst.bitcnt] using h.loadCount

theorem Generating.busy {C : CrcConfig} {n : Nat} {s : State} (h : Generating C n s) (hn : n < 2560) :
    s.phase ≠ .idle := by
  intro hidle
  have htaken := h.taken
  rw [stepsTaken_of_idle hidle] at htaken
  omega

theorem generating_sequencerStep {C : CrcConfig} {n : Nat} {s : State} (h : Generating C n s) (hn : n < 2560) :
    Generating C (n + 1) (sequencerStep s) where
  powered := (sequencerStep_powerLost s).trans h.powered
  latched := (sequencerStep_act s).trans h.latched
  built := built_sequencerStep h.built
  taken := by rw [stepsTaken_sequencerStep h.built (h.busy hn), h.taken]
  loadCount := by
    intro hload _
    cases hp : s.phase with
    | idle => exact absurd hp (h.busy hn)
    | load =>
      rw [sequencerStep_of_load hp] at hload
      cases hload
    | step =>
      obtain ⟨hcount, -⟩ := h.built.dividing hp
      rw [sequencerStep_of_step hp, seqDivide_phase_eq_ite hcount] at hload
      split at hload <;> cases hload
    | store =>
      obtain ⟨hcount, -⟩ := h.built.divided hp
      simp only [sequencerStep, hp, seqStore_bitcnt]
      exact BitVec.eq_of_toNat_eq hcount

theorem generating_afterSequencer {C : CrcConfig} {n : Nat} {s : State} (h : Generating C n s) (hn : n < 2560) :
    Generating C (n + 1) (afterSequencer s) :=
  generating_sequencerStep (h.congr (sameProgress_takeEvent s) h.powered) hn

/-- An undisturbed cycle before the last is one step of the timetable. -/
theorem Generating.cycle {C : CrcConfig} {n : Nat} {s : State} (h : Generating C n s) (hn : n + 1 < 2560)
    (he : Undisturbed (nextEvent s)) :
    ∃ t, step s = .next t ∧ Generating C (n + 1) t ∧ t.inputs = s.inputs.tail := by
  obtain ⟨t, hs⟩ := step_total s
  have hseq := generating_afterSequencer h (by omega)
  have hsame := sameProgress_of_undisturbed h.powered he hs (hseq.busy hn)
  obtain ⟨⟨req, hreq⟩, -⟩ := he
  obtain ⟨hpow, hinputs⟩ := step_of_cycle_keeps h.powered hreq hs
  exact ⟨t, hs, hseq.congr hsame hpow, hinputs⟩

/-- Where the outside presents nothing more, the cycles are undisturbed. -/
theorem undisturbed_nextEvent {s : State} {k : Nat} (h : ∀ e ∈ s.inputs.take (k + 1), Undisturbed e) :
    Undisturbed (nextEvent s) ∧ ∀ e ∈ s.inputs.tail.take k, Undisturbed e := by
  unfold nextEvent
  cases hs : s.inputs with
  | nil => exact ⟨⟨⟨none, rfl⟩, nofun⟩, by simp⟩
  | cons e es =>
    rw [hs, List.take_succ_cons] at h
    exact ⟨h e List.mem_cons_self, fun f hf => h f (List.mem_cons_of_mem _ hf)⟩

theorem Generating.run_undisturbed {C : CrcConfig} {n k : Nat} {s : State} (h : Generating C n s) (hk : n + k < 2560)
    (hev : ∀ e ∈ s.inputs.take k, Undisturbed e) :
    ∃ t : State, Sys2Proof.core.run k s = .next t ∧ Generating C (n + k) t ∧ t.inputs = s.inputs.drop k := by
  induction k generalizing n s with
  | zero => exact ⟨s, rfl, h, rfl⟩
  | succ k ih =>
    obtain ⟨hfirst, hrest⟩ := undisturbed_nextEvent hev
    obtain ⟨u, hs, hu, hinputs⟩ := h.cycle (by omega) hfirst
    obtain ⟨t, hrun, ht, hdrop⟩ := ih hu (by omega) (hinputs ▸ hrest)
    refine ⟨t, (run_succ_of_next hs k).trans hrun, Nat.add_right_comm n 1 k ▸ ht, ?_⟩
    rw [hdrop, hinputs, List.drop_tail]

/-! ## The timetable -/

/-- Each entry takes ten cycles, so the count gives IDX. -/
theorem Generating.idx_bounds {C : CrcConfig} {n : Nat} {s : State} (h : Generating C n s) (hn : n < 2560) :
    10 * s.idx.toNat ≤ n ∧ n < 10 * (s.idx.toNat + 1) := by
  have htaken := h.taken
  cases hp : s.phase with
  | idle => exact absurd hp (h.busy hn)
  | load => rw [stepsTaken_of_load hp] at htaken; omega
  | step =>
    obtain ⟨hcount, -⟩ := h.built.dividing hp
    rw [stepsTaken_of_step hp] at htaken
    omega
  | store => rw [stepsTaken_of_store hp] at htaken; omega

theorem Generating.tableRead_eq_entry {C : CrcConfig} {n : Nat} {s : State} (h : Generating C n s) (hn : n < 2560) {d : Byte}
    (hd : 10 * (d.toNat + 1) ≤ n) : s.tableRead d = entry d C := by
  obtain ⟨-, hbelow⟩ := h.built.below (h.busy hn)
  obtain ⟨-, hupper⟩ := h.idx_bounds hn
  rw [← h.latched]
  exact hbelow d (by omega)

/-- The timetable of R276, of the state after cycle `n`. -/
theorem Generating.timetable {C : CrcConfig} {n : Nat} {s : State} (h : Generating C n s) (hpos : 1 ≤ n)
    (hn : n < 2560) :
    let j := (n - 1) % 10
    let e := (n - 1) / 10
    (j ≤ 7 → s.phase = .step ∧ s.bitcnt.toNat = j ∧ s.idx.toNat = e) ∧
    (j = 8 → s.phase = .store ∧ s.bitcnt.toNat = 8 ∧ s.idx.toNat = e) ∧
    (j = 9 → s.phase = .load ∧ s.bitcnt.toNat = 8 ∧ s.idx.toNat = e + 1) := by
  have htaken := h.taken
  cases hp : s.phase with
  | idle => exact absurd hp (h.busy hn)
  | load =>
    rw [stepsTaken_of_load hp] at htaken
    have hcount := h.loadCount hp (by bv_omega)
    exact ⟨by omega, by omega, fun _ => ⟨rfl, by rw [hcount]; rfl, by omega⟩⟩
  | step =>
    obtain ⟨hcount, -⟩ := h.built.dividing hp
    rw [stepsTaken_of_step hp] at htaken
    exact ⟨fun _ => ⟨rfl, by omega, by omega⟩, by omega, by omega⟩
  | store =>
    obtain ⟨hcount, -⟩ := h.built.divided hp
    rw [stepsTaken_of_store hp] at htaken
    exact ⟨by omega, fun _ => ⟨rfl, hcount, by omega⟩, by omega⟩

/-- Settles O20: the run of `k` undisturbed cycles, read off the timetable. -/
theorem generationKeepsItsTimetable : Obligations.GenerationKeepsItsTimetable := by
  intro s k hpow hp hi _ hv hpos hk hev
  obtain ⟨t, hrun, ht, -⟩ := (generating_of_started hpow hp hi hv).run_undisturbed (by omega) hev
  rw [zero_add] at ht
  have hlt : k < 2560 := by omega
  obtain ⟨hvalid, -⟩ := ht.built.below (ht.busy hlt)
  exact ⟨t, hrun, ht.powered, ht.latched, hvalid, ht.timetable hpos hlt, fun _ hd => ht.tableRead_eq_entry hlt hd⟩

/-! ## The last cycle -/

/-- The 2560th cycle is the STORE of entry 255 (R153); a quiet one keeps what it did. -/
theorem Generating.last_cycle {C : CrcConfig} {s : State} (h : Generating C 2559 s) (he : Quiet (nextEvent s)) :
    ∃ t, step s = .next t ∧ t.valid = true ∧ t.done = true ∧ t.phase = .idle ∧ t.act = C ∧ t.idx = 255 ∧ t.bitcnt = 8 ∧
      ∀ d : Byte, t.tableRead d = entry d C := by
  obtain ⟨t, hs⟩ := step_total s
  obtain ⟨hsame, hkeep⟩ := sameProgress_of_quiet h.powered he hs
  have hbuilt : Built (takeEvent s) := h.built.congr (sameProgress_takeEvent s)
  have hlast : StoresLastEntry (takeEvent s) := storesLastEntry_of_stepsTaken hbuilt h.taken
  obtain ⟨hvalid, hdone, hphase, htable, hidx, hbitcnt⟩ := sequencerStep_of_storesLastEntry hbuilt hlast
  rw [takeEvent_act, h.latched] at htable
  exact ⟨t, hs, hsame.valid.trans hvalid, hkeep.trans hdone, hsame.phase.trans hphase,
    hsame.act.trans ((sequencerStep_act _).trans h.latched), hsame.idx.trans hidx, hsame.bitcnt.trans hbitcnt,
    fun d => (hsame.table d).trans (htable d)⟩

/-- Settles O21: 2559 cycles of the timetable, then the last one. -/
theorem generationCompletesInCycle2560 : Obligations.GenerationCompletesInCycle2560 := by
  intro s hpow hp hi _ hv hev hquiet
  obtain ⟨u, hrun, hu, hinputs⟩ := (generating_of_started hpow hp hi hv).run_undisturbed (k := 2559) (by omega) hev
  have hquiet' : Quiet (nextEvent u) := by rwa [nextEvent, hinputs]
  obtain ⟨t, hs, hcomplete⟩ := hu.last_cycle hquiet'
  exact ⟨t, (run_add_of_next hrun 1).trans ((run_one u).trans hs), hcomplete⟩

/-! ## WAIT_IDLE -/

theorem issue_read {s : State} (hpow : s.powerLost = false) (r : Reg) :
    issue (stmtAccess (.rd r)) s =
      some (respond (.okayRead (readRegister r (sequencerStep s))) (sequencerStep s)) := by
  rw [issue, step_of_read (s := presentFirst _ s) hpow rfl rfl (memRead_regOffset r (sequencerStep s))]
  rfl

/-- WAIT_IDLE looks at STATUS.BUSY, bit 0 (R32). -/
theorem statusWord_and_one_beq (s : State) : (s.statusWord &&& 1#64 == 0#64) = decide (s.phase = .idle) := by
  have hbit : s.statusWord.toNat % 2 = s.busy.toNat := by
    rw [statusWord_toNat]
    cases s.busy <;> simp only [Bool.toNat_true, Bool.toNat_false] <;> omega
  rw [Bool.eq_iff_iff, beq_iff_eq, decide_eq_true_iff, ← BitVec.toNat_inj, BitVec.toNat_and, BitVec.toNat_ofNat,
    Nat.one_mod_two_pow (by decide), Nat.and_one_is_mod, hbit]
  cases hp : s.phase <;> simp [State.busy, hp]

/-- One read of WAIT_IDLE: it ends the poll where the sequencer's step left PHASE IDLE. -/
theorem runPoll_status {s : State} (hpow : s.powerLost = false) (fuel : Nat) :
    let t := respond (.okayRead (sequencerStep s).statusWord) (sequencerStep s)
    runPoll (fuel + 1) (stmtAccess (.rd .status)) 1#64 0#64 s =
      if t.phase = .idle then some t else runPoll fuel (stmtAccess (.rd .status)) 1#64 0#64 t := by
  intro t
  have hends : pollEnds 1#64 0#64 t = decide (t.phase = .idle) := statusWord_and_one_beq (sequencerStep s)
  have hread : issue (stmtAccess (.rd .status)) s = some t := issue_read hpow .status
  rw [runPoll, hread, Option.bind_some, hends]
  simp only [decide_eq_true_eq]

theorem runProgram_waitIdle (fuel : Nat) (s : State) :
    runProgram fuel [.waitIdle] s = runPoll fuel (stmtAccess (.rd .status)) 1#64 0#64 s := by
  simp [runProgram, expand, pollStep, runHost]

/-- A cycle that only reads is one step of the timetable. -/
theorem Generating.read {C : CrcConfig} {n : Nat} {s : State} (h : Generating C n s) (hn : n < 2560) (q : Response) :
    Generating C (n + 1) (respond q (sequencerStep s)) :=
  have hseq := generating_sequencerStep h hn
  hseq.congr (sameProgress_respond q _) hseq.powered

/-- While reads are too few, none finds the block idle. -/
theorem Generating.runPoll_eq_none {C : CrcConfig} {n fuel : Nat} {s : State} (h : Generating C n s)
    (hn : n + fuel < 2560) : runPoll fuel (stmtAccess (.rd .status)) 1#64 0#64 s = none := by
  induction fuel generalizing n s with
  | zero => rfl
  | succ fuel ih =>
    have hnext := h.read (by omega) (.okayRead (sequencerStep s).statusWord)
    rw [runPoll_status h.powered, if_neg (hnext.busy (by omega))]
    exact ih hnext (by omega)

/-- The read that the 2560th cycle processes finds the table complete. -/
theorem Generating.runPoll_completes {C : CrcConfig} {n fuel : Nat} {s : State} (h : Generating C n s)
    (hn : n + fuel = 2559) :
    ∃ t, runPoll (fuel + 1) (stmtAccess (.rd .status)) 1#64 0#64 s = some t ∧ t.valid = true ∧ t.phase = .idle ∧
      ∀ d : Byte, t.tableRead d = entry d C := by
  induction fuel generalizing n s with
  | zero =>
    have hlast : StoresLastEntry s := storesLastEntry_of_stepsTaken h.built (by rw [h.taken]; omega)
    obtain ⟨hvalid, -, hphase, htable, -⟩ := sequencerStep_of_storesLastEntry h.built hlast
    rw [h.latched] at htable
    exact ⟨_, (runPoll_status h.powered 0).trans (if_pos hphase), hvalid, hphase, htable⟩
  | succ fuel ih =>
    have hnext := h.read (by omega) (.okayRead (sequencerStep s).statusWord)
    rw [runPoll_status h.powered, if_neg (hnext.busy (by omega))]
    exact ih hnext (by omega)

/-- Settles O59: the polls of a generation just started, and of an idle block, whose sequencer does nothing. -/
theorem waitIdleEnds : Obligations.WaitIdleEnds := by
  refine ⟨fun s hpow hp hi _ hv => ?_, fun s hpow hidle => ?_⟩
  · have h := generating_of_started hpow hp hi hv
    rw [runProgram_waitIdle, runProgram_waitIdle]
    exact ⟨h.runPoll_completes (fuel := 2559) (by omega), h.runPoll_eq_none (by omega)⟩
  · have hphase : (sequencerStep s).phase = .idle := by rw [sequencerStep_of_idle hidle, hidle]
    exact ⟨_, (runProgram_waitIdle 1 s).trans ((runPoll_status hpow 0).trans (if_pos hphase))⟩

end Sys2Proof.Machine
end

section
/-! What changes what in a step: VALID (O43), ERR and ERR_CODE (O45), TABLE (O46), the latched configuration, ACC and RESULT
(O47). -/

namespace Sys2Proof.Machine

/-! ## VALID and the latched configuration: the accepted GENERATE -/

/-- The command is a GENERATE that is accepted (R143). -/
def Accepts (c : Option Instr) (s : State) : Prop :=
  c = some .generate ∧ s.phase = .idle ∧ checkConfig s.wMax s.pending = none

theorem accepts_afterSequencer (c : Option Instr) (s : State) :
    Accepts c (afterSequencer s) ↔
      c = some .generate ∧ (afterSequencer s).phase = .idle ∧ checkConfig s.wMax s.pending = none := by
  simp [Accepts, afterSequencer]

theorem exec_accepts_cases {i : Instr} {s t : State} (hx : exec i s = .next t) :
    (Accepts (some i) s ∧ t.act = s.pending ∧ t.valid = false) ∨
      (¬ Accepts (some i) s ∧ t.act = s.act ∧ t.valid = s.valid) := by
  by_cases hg : i = .generate
  · subst hg
    obtain ⟨hbad, c, -, -, rfl⟩ | ⟨hidle, hok, rfl⟩ := execGenerate_cases hx
    · exact .inr ⟨fun ⟨_, hidle, hok⟩ => hbad.elim (absurd hidle) (absurd hok), rfl, rfl⟩
    · exact .inl ⟨⟨rfl, hidle, hok⟩, rfl, rfl⟩
  · obtain ⟨-, -, -, -, -, -, -, -, hlatched, -⟩ := commandFrames i s t hx
    obtain ⟨hact, hvalid, -⟩ := hlatched hg
    exact .inr ⟨fun ⟨h, _⟩ => hg (Option.some.inj h), hact, hvalid⟩

/-- What a cycle does to ACT_* and VALID after the sequencer's step. -/
theorem cycle_accepts_cases {req : Option Access} {s t : State} (hc : cycleWith exec req s = .next t) :
    (Accepts (issuedCommand (.cycle req)) (sequencerStep s) ∧ t.act = s.pending ∧ t.valid = false) ∨
      (¬ Accepts (issuedCommand (.cycle req)) (sequencerStep s) ∧ t.act = s.act ∧
        t.valid = (sequencerStep s).valid) := by
  obtain ⟨i, u, hi, hx, rfl⟩ | ⟨hnone, hsame, -⟩ := cycle_command_cases hc
  · have h := exec_accepts_cases hx
    rwa [sequencerStep_act, sequencerStep_pending, ← hi] at h
  · exact .inr ⟨fun ⟨h, _⟩ => (nomatch hnone.symm.trans h), hsame.act.trans (sequencerStep_act s), hsame.valid⟩

theorem sequencerStep_valid_of_last {s : State} (h : StoresLastEntry s) : (sequencerStep s).valid = true := by
  obtain ⟨hp, hi⟩ := h
  rw [sequencerStep_of_store_last hp hi]

theorem sequencerStep_valid_of_not_last {s : State} (h : ¬ StoresLastEntry s) : (sequencerStep s).valid = s.valid := by
  cases hp : s.phase with
  | idle => rw [sequencerStep_of_idle hp]
  | load => rw [sequencerStep_of_load hp, seqLoad_valid]
  | step => rw [sequencerStep_of_step hp, seqDivide_valid]
  | store => rw [sequencerStep_of_store_ne_last hp fun hi => h ⟨hp, hi⟩, State.tableWrite_valid]

/-- Settles O43, by the event: in a cycle the last STORE sets VALID and the accepted GENERATE clears it. -/
theorem onlyTheLastStoreSetsValid : Obligations.OnlyTheLastStoreSetsValid := by
  intro s t hpow hs ht
  obtain ⟨req, he, rfl⟩ | ⟨req, -, rfl⟩ | ⟨-, -, rfl⟩ | ⟨req, -, he, hc⟩ := step_cases hs
  · exact ⟨fun _ hv => (nomatch hv), fun _ _ => .inl ⟨req, he⟩⟩
  · simp at ht
  · exact ⟨fun hv hv' => (nomatch hv.symm.trans hv'), fun hv hv' => (nomatch hv.symm.trans hv')⟩
  · rw [he]
    obtain ⟨haccepts, -, hv⟩ | ⟨-, -, hv⟩ := cycle_accepts_cases hc
    · exact ⟨fun _ hv' => (nomatch hv.symm.trans hv'), fun _ _ => .inr ((accepts_afterSequencer _ s).1 haccepts)⟩
    · by_cases hlast : StoresLastEntry (takeEvent s)
      · rw [sequencerStep_valid_of_last hlast] at hv
        exact ⟨fun _ _ => hlast, fun _ hv' => (nomatch hv.symm.trans hv')⟩
      · rw [sequencerStep_valid_of_not_last hlast] at hv
        exact ⟨fun h h' => (nomatch h.symm.trans (hv.symm.trans h')),
          fun h h' => (nomatch h.symm.trans (hv.symm.trans h'))⟩

/-! ## ACC and RESULT -/

/-- Settles O47: GENERATE by `cycle_accepts_cases`, ACC and RESULT by the frames of the command. -/
theorem whoWritesActAccAndResult : Obligations.WhoWritesActAccAndResult := by
  intro s t req hpow he hs
  rw [step_cycle hpow he] at hs
  rw [he, ← accepts_afterSequencer]
  have haccepts := cycle_accepts_cases hs
  refine ⟨fun h => ?_, fun h => ?_, ?_⟩
  · obtain ⟨-, hact, -⟩ | ⟨hno, -⟩ := haccepts
    · exact hact
    · exact absurd h hno
  · obtain ⟨hyes, -⟩ | ⟨-, hact, -⟩ := haccepts
    · exact absurd hyes h
    · exact hact
  obtain ⟨i, u, hi, hx, rfl⟩ | ⟨-, -, hacc, hresult⟩ := cycle_command_cases hs
  · obtain ⟨-, -, -, -, -, -, -, -, -, -, -, hacc, hresult, -⟩ := commandFrames i _ u hx
    rw [sequencerStep_acc] at hacc
    rw [sequencerStep_result] at hresult
    rw [hi]
    simp only [Option.some.injEq]
    refine ⟨fun hne => ?_, fun hne => ?_⟩
    · by_contra hno
      simp only [not_or, not_exists] at hno
      obtain ⟨hg, hinit, hupdate⟩ := hno
      exact hne (hacc hg hinit hupdate)
    · by_contra hno
      obtain ⟨hg, hfinal⟩ := not_or.1 hno
      exact hne (hresult hg hfinal)
  · exact ⟨fun hne => absurd hacc hne, fun hne => absurd hresult hne⟩

/-! ## TABLE -/

/-- Settles O46: only the sequencer's step writes TABLE where the command is no ABORT of a running generation. -/
theorem onlyStoreWritesTheTable : Obligations.OnlyStoreWritesTheTable := by
  intro s t req hpow he hs hno d
  rw [step_cycle hpow he] at hs
  have hread : t.tableRead d = (sequencerStep (takeEvent s)).tableRead d := by
    obtain ⟨i, u, hi, hx, rfl⟩ | ⟨-, hsame, -⟩ := cycle_command_cases hs
    · have hkeeps : i ≠ .abort ∨ (afterSequencer s).phase = .idle := by
        rw [he, hi, Option.some.injEq] at hno
        exact or_iff_not_and_not.2 (by simpa using hno)
      obtain ⟨htable, -⟩ := commandFrames i _ u hx
      obtain ⟨hread, -⟩ := htable hkeeps
      exact hread d
    · exact hsame.table d
  rw [hread]
  exact sequencerStep_tableRead (takeEvent s) d

/-! ## ERR and ERR_CODE -/

/-- A raised error sets ERR, and replaces no code recorded before (R241). -/
theorem raises_err {s t : State} (h : Raises s t) : t.err = true ∧ (s.err = true → t.errCode = s.errCode) := by
  obtain ⟨c, -, -, rfl⟩ := h
  exact ⟨rfl, fun he => if_pos he⟩

/-- ERR and ERR_CODE after a command: cleared by ACK, else kept or raised (R211, R241). -/
theorem exec_err_cases {i : Instr} {s t : State} (hx : exec i s = .next t) :
    (i = .ack ∧ t.err = false ∧ t.errCode = 0) ∨ (i ≠ .ack ∧ t.err = s.err ∧ t.errCode = s.errCode) ∨
      (i ≠ .ack ∧ Raises s t) := by
  obtain ⟨⟨-, -, hack⟩, hr⟩ | rfl := exec_cases hx
  · exact .inr (.inr ⟨hack, hr⟩)
  · cases i with
    | ack => exact .inl ⟨rfl, rfl, rfl⟩
    | abort =>
      obtain ⟨herr, hcode⟩ := commandEffect_keeps_error (s := s) (.inr rfl)
      exact .inr (.inl ⟨nofun, herr, hcode⟩)
    | _ => exact .inr (.inl ⟨nofun, rfl, rfl⟩)

/-- The three things an event can do to ERR and ERR_CODE. -/
inductive ErrorChange (e : HostEvent) (s t : State) : Prop where
  | cleared (hwhy : (∃ req, e = .resetLow req) ∨ issuedCommand e = some .ack) (herr : t.err = false)
    (hcode : t.errCode = 0)
  | kept (hno : ¬ ((∃ req, e = .resetLow req) ∨ issuedCommand e = some .ack)) (herr : t.err = s.err)
    (hcode : t.errCode = s.errCode)
  | raised (hno : ¬ ((∃ req, e = .resetLow req) ∨ issuedCommand e = some .ack)) (hcmd : ∃ w, writtenCommand e = some w)
    (herr : t.err = true) (hcode : s.err = true → t.errCode = s.errCode)

theorem not_reset_nor_ack {req : Option Access} (h : issuedCommand (.cycle req) ≠ some .ack) :
    ¬ ((∃ r, HostEvent.cycle req = .resetLow r) ∨ issuedCommand (.cycle req) = some .ack) :=
  not_or.2 ⟨fun ⟨_, hr⟩ => (nomatch hr), h⟩

theorem cycle_errorChange {req : Option Access} {s t : State} (hc : cycleWith exec req s = .next t) :
    ErrorChange (.cycle req) s t := by
  have hunwritten (h : writtenCommand (.cycle req) = none) := not_reset_nor_ack (req := req) (by
    rw [issuedCommand_eq_none_of_unwritten h]; exact nofun)
  obtain ⟨rfl, rfl⟩ | ⟨r, rfl, hw⟩ | ⟨r, v, -, -, rfl, hw⟩ | ⟨w, i, u, hw, hd, hx, rfl⟩ | ⟨w, why, hw, hd, rfl⟩ :=
    cycle_cases hc
  · exact .kept (hunwritten rfl) (by simp) (by simp)
  · exact .kept (hunwritten hw) (by simp) (by simp)
  · exact .kept (hunwritten hw) (by simp) (by simp)
  · have hissued := issuedCommand_eq_some hw hd
    have hno (hi : i ≠ .ack) := not_reset_nor_ack (req := req) (hissued ▸ fun h => hi (Option.some.inj h))
    obtain ⟨rfl, herr, hcode⟩ | ⟨hi, herr, hcode⟩ | ⟨hi, hr⟩ := exec_err_cases hx
    · exact .cleared (.inr hissued) herr hcode
    · exact .kept (hno hi) (by simp [herr]) (by simp [hcode])
    · obtain ⟨herr, hcode⟩ := raises_err hr
      exact .raised (hno hi) ⟨w, hw⟩ herr (by simpa using hcode)
  · obtain ⟨herr, hcode⟩ := raises_err (raises_illegalCmd (sequencerStep s))
    refine .raised (not_reset_nor_ack ?_) ⟨w, hw⟩ herr (by simpa using hcode)
    rw [issuedCommand_eq_none_of_illegal hw hd]
    exact nofun

theorem step_errorChange {s t : State} (hs : step s = .next t) (ht : t.powerLost = false) :
    ErrorChange (nextEvent s) s t := by
  obtain ⟨req, he, rfl⟩ | ⟨req, -, rfl⟩ | ⟨-, he, rfl⟩ | ⟨req, -, he, hc⟩ := step_cases hs
  · exact .cleared (.inl ⟨req, he⟩) rfl rfl
  · simp at ht
  · rw [he]
    exact .kept (not_or.2 ⟨fun ⟨_, hr⟩ => (nomatch hr), nofun⟩) rfl rfl
  · rw [he]
    obtain ⟨hwhy, herr, hcode⟩ | ⟨hno, herr, hcode⟩ | ⟨hno, hcmd, herr, hcode⟩ := cycle_errorChange hc
    · exact .cleared hwhy herr hcode
    · exact .kept hno herr hcode
    · exact .raised hno hcmd herr hcode

/-- Settles O45, by the three changes of the error record. -/
theorem onlyAckAndResetClearErr : Obligations.OnlyAckAndResetClearErr := by
  intro s t _ hs ht e
  obtain ⟨hwhy, herr, hcode⟩ | ⟨hno, herr, hcode⟩ | ⟨hno, hcmd, herr, hcode⟩ := step_errorChange hs ht
  · exact ⟨fun _ h => (nomatch herr.symm.trans h), fun _ _ => hwhy, fun _ => ⟨herr, hcode⟩, fun h => absurd hwhy h⟩
  · exact ⟨fun h h' => (nomatch h.symm.trans (herr.symm.trans h')), fun h h' => (nomatch h.symm.trans (herr.symm.trans h')),
      fun h => absurd h hno, fun _ h => absurd hcode h⟩
  · refine ⟨fun _ _ => hcmd, fun _ h => (nomatch herr.symm.trans h), fun h => absurd h hno, fun _ h => ⟨?_, herr⟩⟩
    exact Bool.eq_false_iff.2 fun hset => h (hcode hset)

end Sys2Proof.Machine
end

section
/-! Steps by their event: reset (O51), a stopped clock and removed power (O52). -/

namespace Sys2Proof.Machine

/-! ## The next state of each event that is no powered cycle -/

theorem step_of_resetLow {s : State} {req : Option Access} (he : nextEvent s = .resetLow req) :
    step s = .next (enterReset req (takeEvent s)) := by
  rw [step_eq, he, eventWith]

theorem step_of_powerRemoved {s : State} (he : nextEvent s = .powerRemoved) :
    step s = .next (losePower none (takeEvent s)) := by
  rw [step_eq, he, eventWith]

theorem step_of_clockStopped {s : State} (hpow : s.powerLost = false) (he : nextEvent s = .clockStopped) :
    step s = .next (silent (takeEvent s)) := by
  simp [step_eq, he, eventWith, hpow]

/-- Without power a stopped clock draws new values, as every event but reset does (I24). -/
theorem step_of_clockStopped_powerless {s : State} (hpow : s.powerLost = true) (he : nextEvent s = .clockStopped) :
    step s = .next (losePower none (takeEvent s)) := by
  simp [step_eq, he, eventWith, hpow]

theorem step_cycle_powerless {s : State} {req : Option Access} (hpow : s.powerLost = true)
    (he : nextEvent s = .cycle req) : step s = .next (losePower req (takeEvent s)) := by
  simp [step_eq, he, eventWith, hpow]

/-! ## Reset -/

/-- ACT_POLY's reset value fits 64 bits, so it is the number it is cut to (R36). -/
theorem actReset_polynomial_toNat (m : WMax) : (CrcConfig.actReset m).polynomial.toNat = 0x1021 % 2 ^ m.bits := by
  cases m <;> decide

/-- Settles O51: `enterReset`, register by register. -/
theorem resetHoldsTheResetState : Obligations.ResetHoldsTheResetState := by
  intro s req he
  refine ⟨_, step_of_resetLow he, rfl, rfl, rfl, actReset_polynomial_toNat s.wMax, rfl, rfl, rfl, rfl, rfl, rfl, rfl, rfl,
    rfl, rfl, rfl, rfl, rfl, rfl, rfl, rfl, rfl, rfl, rfl, ?_, ?_⟩
  · rintro rfl
    rfl
  · intro hne
    obtain ⟨a, rfl⟩ := Option.ne_none_iff_exists'.1 hne
    rfl

/-! ## Clock and power -/

/-- Settles O52: a powered block keeps its registers while the clock stands still, and every event but reset leaves a
block without power powerless. -/
theorem clockAndPower : Obligations.ClockAndPower := by
  refine ⟨fun s => step_of_clockStopped, fun s he => ⟨_, step_of_powerRemoved he, rfl⟩, fun s hpow hno => ?_⟩
  cases he : nextEvent s with
  | cycle req => exact ⟨_, step_cycle_powerless hpow he, rfl⟩
  | resetLow req => exact absurd he (hno req)
  | clockStopped => exact ⟨_, step_of_clockStopped_powerless hpow he, rfl⟩
  | powerRemoved => exact ⟨_, step_of_powerRemoved he, rfl⟩

end Sys2Proof.Machine
end

section
/-! The pending configuration influences nothing until GENERATE (O48): each part of a step does the same whatever it is, but
for the answers to reads of CFG, POLY, INIT and XOROUT. -/

namespace Sys2Proof.Machine

theorem sequencerStep_with_pending (p : CrcConfig) (s : State) :
    sequencerStep { s with pending := p } = { sequencerStep s with pending := p } :=
  (sequencerReadsNoInitialRemainderNorPending s p s.act.initialRemainder s.act.finalXor).trans
    (congrArg (fun C => { sequencerStep s with pending := p, act := C }) (sequencerStep_act s).symm)

theorem exec_message_with_pending {i : Instr} (hi : i = .crcInit ∨ (∃ b, i = .crcUpdate b) ∨ i = .crcFinal)
    (p : CrcConfig) (s : State) :
    exec i { s with pending := p } = onNext (exec i s) fun t => { t with pending := p } := by
  have hsame : messageRefusal { s with pending := p } = messageRefusal s := rfl
  obtain ⟨-, hr⟩ | ⟨-, -, hr⟩ | ⟨hidle, hv, -⟩ := messageRefusal_cases s
  · rw [exec_message_of_refusal hi hr, exec_message_of_refusal hi (hsame.trans hr)]
    rfl
  · rw [exec_message_of_refusal hi hr, exec_message_of_refusal hi (hsame.trans hr)]
    rfl
  · obtain rfl | ⟨b, rfl⟩ | rfl := hi
    · rw [exec_crcInit_of_ready hidle hv]
      exact exec_crcInit_of_ready (s := { s with pending := p }) hidle hv
    · rw [exec_crcUpdate_of_ready hidle hv]
      exact exec_crcUpdate_of_ready (s := { s with pending := p }) hidle hv b
    · rw [exec_crcFinal_of_ready hidle hv]
      exact exec_crcFinal_of_ready (s := { s with pending := p }) hidle hv

theorem exec_with_pending {i : Instr} (hg : i ≠ .generate) (p : CrcConfig) (s : State) :
    exec i { s with pending := p } = onNext (exec i s) fun t => { t with pending := p } := by
  cases i with
  | nop => rfl
  | generate => exact absurd rfl hg
  | abort =>
    by_cases hidle : s.phase = .idle
    · rw [exec_abort_of_idle hidle]
      exact exec_abort_of_idle (s := { s with pending := p }) hidle
    · rw [exec_abort_of_busy hidle]
      exact exec_abort_of_busy (s := { s with pending := p }) hidle
  | ack => rfl
  | crcInit => exact exec_message_with_pending (.inl rfl) p s
  | crcUpdate b => exact exec_message_with_pending (.inr (.inl ⟨b, rfl⟩)) p s
  | crcFinal => exact exec_message_with_pending (.inr (.inr rfl)) p s

/-- The offsets at which a read shows the pending configuration (R23, R26 to R28). -/
def ShowsPending (a : BitVec 12) : Prop := a = 0x010 ∨ a = 0x018 ∨ a = 0x020 ∨ a = 0x028

theorem readRegister_with_pending (r : Reg) (p : CrcConfig) (s : State) :
    readRegister r { s with pending := p } = readRegister r s ∨ ShowsPending (regOffset r) := by
  cases r with
  | cfg => exact .inr (.inl rfl)
  | poly => exact .inr (.inr (.inl rfl))
  | init => exact .inr (.inr (.inr (.inl rfl)))
  | xorout => exact .inr (.inr (.inr (.inr rfl)))
  | _ => exact .inl rfl

theorem memRead_with_pending (a : BitVec 12) (n : BitVec 4) (p : CrcConfig) (s : State) :
    memRead a n { s with pending := p } = memRead a n s ∨ ShowsPending a := by
  cases hr : regAt a with
  | none => exact .inl (by simp only [memRead, hr]; rfl)
  | some r =>
    obtain hsame | hshows := readRegister_with_pending r p s
    · exact .inl (by simp only [memRead, hr, hsame]; rfl)
    · exact .inr (regAt_eq_some hr ▸ hshows)

theorem commandWith_with_pending {w : Word} (hg : decode w ≠ .command .generate) (p : CrcConfig) (s : State) :
    commandWith exec w { s with pending := p } = onNext (commandWith exec w s) fun t => { t with pending := p } := by
  cases hd : decode w with
  | command i =>
    rw [commandWith_of_command exec hd, commandWith_of_command exec hd]
    exact exec_with_pending (fun hi => hg (hi ▸ hd)) p s
  | illegal why =>
    rw [commandWith_of_illegal exec hd, commandWith_of_illegal exec hd]
    rfl

theorem writeRegister_with_pending (r : Reg) (v : Word) (p : CrcConfig) (s : State) :
    writeRegister r v { s with pending := p } =
      { writeRegister r v s with pending := (writeRegister r v { s with pending := p }).pending } := by
  cases r <;> rfl

/-- `t'` is `t` but for the pending configuration and the answer, which differs only to a read that shows it. -/
def DiffersInPending (req : Option Access) (t t' : State) : Prop :=
  ∃ q r, t' = { t with pending := q, rsp := r } ∧
    (r = t.rsp ∨ ∃ a, req = some a ∧ a.write = false ∧ ShowsPending a.addr)

theorem differsInPending_of_pending {req : Option Access} {t t' : State} {q : CrcConfig}
    (h : t' = { t with pending := q }) : DiffersInPending req t t' :=
  ⟨q, t.rsp, h, .inl rfl⟩

theorem access_with_pending {a : Access} {s t : State} (h : accessWith exec a s = .next t)
    (hg : issuedCommand (.cycle (some a)) ≠ some .generate) (p : CrcConfig) :
    ∃ t', accessWith exec a { s with pending := p } = .next t' ∧ DiffersInPending (some a) t t' := by
  cases hw : a.write with
  | false =>
    rw [accessWith_read exec hw] at h
    cases h
    refine ⟨_, accessWith_read exec hw _, p, some (memRead a.addr a.size { s with pending := p }), rfl, ?_⟩
    obtain hsame | hshows := memRead_with_pending a.addr a.size p s
    · exact .inl (congrArg some hsame)
    · exact .inr ⟨a, rfl, hw, hshows⟩
  | true =>
    cases hr : writeRoute a.addr a.size with
    | refuse q =>
      rw [accessWith_refused_write exec hw hr] at h
      cases h
      exact ⟨_, accessWith_refused_write exec hw hr _, differsInPending_of_pending rfl⟩
    | register r =>
      by_cases hcmd : r = .cmd
      · subst hcmd
        have hwritten : writtenCommand (.cycle (some a)) = some a.wdata := by simp [writtenCommand, hw, hr]
        have hdecode : decode a.wdata ≠ .command .generate := fun hd => hg (issuedCommand_eq_some hwritten hd)
        obtain ⟨u, hu⟩ := commandWith_total a.wdata s
        rw [accessWith_command exec hw hr, hu] at h
        cases h
        refine ⟨respond .okayWrite { u with pending := p }, ?_, differsInPending_of_pending rfl⟩
        rw [accessWith_command exec hw hr, commandWith_with_pending hdecode, hu]
        rfl
      · rw [accessWith_register_write exec hw hr hcmd] at h
        cases h
        have hsame := congrArg (respond .okayWrite) (writeRegister_with_pending r a.wdata p s)
        exact ⟨_, accessWith_register_write exec hw hr hcmd _,
          differsInPending_of_pending (q := (writeRegister r a.wdata { s with pending := p }).pending) hsame⟩

theorem cycle_with_pending {req : Option Access} {s t : State} (h : cycleWith exec req s = .next t)
    (hg : issuedCommand (.cycle req) ≠ some .generate) (p : CrcConfig) :
    ∃ t', cycleWith exec req { s with pending := p } = .next t' ∧ DiffersInPending req t t' := by
  cases req with
  | none =>
    cases h
    have hsame := congrArg silent (sequencerStep_with_pending p s)
    exact ⟨_, rfl, differsInPending_of_pending (q := p) hsame⟩
  | some a =>
    rw [cycleWith, sequencerStep_with_pending]
    exact access_with_pending h hg p

/-- Settles O48, by the event: reset and the loss of power replace the pending configuration, a stopped clock keeps it, a
cycle is `cycle_with_pending`. -/
theorem pendingConfigurationWaitsForGenerate : Obligations.PendingConfigurationWaitsForGenerate := by
  intro s t p hs hg
  cases he : nextEvent s with
  | resetLow req =>
    cases (step_of_resetLow he).symm.trans hs
    exact ⟨_, _, step_of_resetLow (s := { s with pending := p }) he, .inl rfl⟩
  | powerRemoved =>
    cases (step_of_powerRemoved he).symm.trans hs
    exact ⟨_, _, step_of_powerRemoved (s := { s with pending := p }) he, .inl rfl⟩
  | clockStopped =>
    obtain hpow | hpow := Bool.eq_false_or_eq_true s.powerLost
    · cases (step_of_clockStopped_powerless hpow he).symm.trans hs
      exact ⟨_, _, step_of_clockStopped_powerless (s := { s with pending := p }) hpow he, .inl rfl⟩
    · cases (step_of_clockStopped hpow he).symm.trans hs
      exact ⟨_, _, step_of_clockStopped (s := { s with pending := p }) hpow he, .inl rfl⟩
  | cycle req =>
    obtain hpow | hpow := Bool.eq_false_or_eq_true s.powerLost
    · cases (step_cycle_powerless hpow he).symm.trans hs
      exact ⟨_, _, step_cycle_powerless (s := { s with pending := p }) hpow he, .inl rfl⟩
    · rw [he] at hg
      rw [step_cycle hpow he] at hs
      obtain ⟨t', ht', q, r, rfl, hr⟩ := cycle_with_pending hs hg p
      refine ⟨q, r, (step_cycle (s := { s with pending := p }) hpow he).trans ht', hr.imp_right ?_⟩
      rintro ⟨a, rfl, hread, hshows⟩
      exact ⟨a, rfl, hread, hshows⟩

end Sys2Proof.Machine
end

section
/-! The division step with the implicit leading coefficient (O6). -/

namespace Sys2Proof.Machine

/-- The bits of `2 r` at W and above: bit W is the top bit of r, the others are 0. -/
theorem testBit_two_mul_of_ge {W r j : Nat} (hW : 1 ≤ W) (hr : r < 2 ^ W) (hj : W ≤ j) :
    (2 * r).testBit j = (decide (W = j) && r.testBit (W - 1)) := by
  obtain ⟨k, rfl⟩ : ∃ k, j = k + 1 := ⟨j - 1, by omega⟩
  rw [Nat.testBit_succ, Nat.mul_div_cancel_left r (by decide)]
  by_cases hk : W = k + 1
  · simp [hk]
  · have hlt : r < 2 ^ k := hr.trans_le (Nat.pow_le_pow_right (by decide) (by omega))
    simp [hk, Nat.testBit_lt_two_pow hlt]

/-- The full-width form: the leading coefficient cancels the bit that the shift moves to W (R123). -/
theorem toNat_divisionStep_full {W : Nat} (hW : 1 ≤ W) (hW' : W ≤ 64) {r P : Word} (hr : r.toNat < 2 ^ W)
    (hP : P.toNat < 2 ^ W) :
    (divisionStep r P W).toNat =
      (2 * r.toNat) ^^^ (if r.toNat.testBit (W - 1) then 2 ^ W ||| P.toNat else 0) := by
  rw [toNat_divisionStep hW hW']
  apply Nat.eq_of_testBit_eq
  intro j
  rw [Nat.testBit_xor, Nat.testBit_xor, Nat.testBit_mod_two_pow]
  by_cases hj : j < W
  · have hne : W ≠ j := by omega
    split <;> simp [hj, hne]
  · have hPj : P.toNat.testBit j = false :=
      Nat.testBit_lt_two_pow (hP.trans_le (Nat.pow_le_pow_right (by decide) (not_lt.1 hj)))
    rw [testBit_two_mul_of_ge hW hr (not_lt.1 hj)]
    split
    next htop => simp [hj, hPj, htop, Nat.testBit_two_pow]
    next htop => simp [hj, htop]

/-- Settles O6: the result is that form, and fits W bits. -/
theorem divisionStepHasTheFullWidthForm : Obligations.DivisionStepHasTheFullWidthForm := by
  intro W r P hW hW' hr hP full
  have hfull : (divisionStep r P W).toNat = full := toNat_divisionStep_full hW hW' hr hP
  exact ⟨hfull, Nat.testBit_lt_two_pow (hfull ▸ divisionStep_lt hW' hP)⟩

end Sys2Proof.Machine
end

section
/-! The host assembly: the accesses of its statements (O57), CONFIG (O58), the window of the block and its byte lanes (O60). -/

namespace Sys2Proof.Machine

/-! ## Statements (R97) -/

theorem encode_crcUpdate_toNat (b : Byte) : (encode (.crcUpdate b)).toNat = 0x05 + 256 * b.toNat := by
  have hopc : (opcodeOf (.crcUpdate b)).toNat = 5 := rfl
  simp only [encode, toNat_append_eq_add, operandOf, hopc, BitVec.toNat_ofNat]
  omega

/-- Settles O57: each statement's access, field by field. -/
theorem statementsAreTheirAccesses : Obligations.StatementsAreTheirAccesses := by
  unfold Obligations.StatementsAreTheirAccesses
  intro off
  have hoff (r : Reg) : regOffset r = off r := by cases r <;> rfl
  refine ⟨hoff, fun r v hv => ⟨rfl, hoff r, rfl, Nat.mod_eq_of_lt hv⟩, fun r => ⟨rfl, hoff r, rfl⟩,
    fun i hi => ⟨rfl, ?_, rfl⟩, fun _ => rfl, encode_crcUpdate_toNat⟩
  exact (toNat_tableOffset (BitVec.ofNat 8 i)).trans (congrArg (0x800 + 8 * ·) (Nat.mod_eq_of_lt hi))

/-! ## CONFIG (R98) -/

/-- The state after a cycle of the host that writes a register. -/
def afterWrite (r : Reg) (v : Nat) (s : State) : State :=
  respond .okayWrite (writeRegister r (BitVec.ofNat 64 v) (sequencerStep s))

@[simp] theorem afterWrite_powerLost (r : Reg) (v : Nat) (s : State) : (afterWrite r v s).powerLost = s.powerLost := by
  simp [afterWrite]

@[simp] theorem afterWrite_act (r : Reg) (v : Nat) (s : State) : (afterWrite r v s).act = s.act := by simp [afterWrite]

theorem runHost_write_cons {s : State} {r : Reg} (hpow : s.powerLost = false) (hr : registerWritable r = true)
    (hne : r ≠ .cmd) (fuel v : Nat) (rest : List HostStep) :
    runHost fuel (stmtStep (.wr r v) :: rest) s = runHost fuel rest (afterWrite r v s) := by
  have hstep : step (presentFirst (.cycle (some (stmtAccess (.wr r v)))) s) = .next (afterWrite r v s) :=
    step_of_register_write (s := presentFirst _ s) hpow hr hne rfl
  have hissue : issue (stmtAccess (.wr r v)) s = some (afterWrite r v s) := congrArg nextState hstep
  rw [stmtStep, runHost, hissue, Option.bind_some]

/-- What the four writes of CONFIG store (R23, R26 to R28). -/
theorem afterWrite_cfg_pending (v : Nat) (s : State) :
    (afterWrite .cfg v s).pending = cfgWrite (BitVec.ofNat 64 v) s.pending := by simp [afterWrite, writeRegister]

theorem afterWrite_poly_pending (v : Nat) (s : State) :
    (afterWrite .poly v s).pending = { s.pending with polynomial := BitVec.ofNat 64 v } := by
  simp [afterWrite, writeRegister]

theorem afterWrite_init_pending (v : Nat) (s : State) :
    (afterWrite .init v s).pending = { s.pending with initialRemainder := BitVec.ofNat 64 v } := by
  simp [afterWrite, writeRegister]

theorem afterWrite_xorout_pending (v : Nat) (s : State) :
    (afterWrite .xorout v s).pending = { s.pending with finalXor := BitVec.ofNat 64 v } := by
  simp [afterWrite, writeRegister]

/-- The data of CONFIG's write to CFG bit by bit: the width below, then the two flags. -/
theorem testBit_cfg_data {w ri ro : Nat} (hw : w < 256) (hri : ri < 2) (j : Nat) :
    (w ||| ri <<< 8 ||| ro <<< 9).testBit j =
      if j < 8 then w.testBit j else if j = 8 then decide (ri = 1) else ro.testBit (j - 9) := by
  simp only [Nat.testBit_or, Nat.testBit_shiftLeft]
  split
  next hj =>
    have h8 : ¬ 8 ≤ j := by omega
    have h9 : ¬ 9 ≤ j := by omega
    simp [h8, h9]
  next hj =>
    have hwj : w.testBit j = false := by
      have hpow : 2 ^ 8 ≤ 2 ^ j := Nat.pow_le_pow_right (by decide) (not_lt.1 hj)
      exact Nat.testBit_lt_two_pow (by omega)
    split
    next h8 =>
      subst h8
      interval_cases ri <;> simp [hwj]
    next h8 =>
      have h9 : 9 ≤ j := by omega
      have hrij : ri.testBit (j - 8) = false := by
        have hpow : 2 ^ 1 ≤ 2 ^ (j - 8) := Nat.pow_le_pow_right (by decide) (by omega)
        exact Nat.testBit_lt_two_pow (by omega)
      simp [hwj, hrij, h9]

theorem cfgWrite_cfg_data {w ri ro : Nat} (hw : w < 256) (hri : ri < 2) (hro : ro < 2) (C : CrcConfig) :
    cfgWrite (BitVec.ofNat 64 (w ||| ri <<< 8 ||| ro <<< 9)) C =
      { C with width := BitVec.ofNat 8 w, reflectInput := decide (ri = 1), reflectOutput := decide (ro = 1) } := by
  have hbit := testBit_cfg_data (ro := ro) hw hri
  have hwidth : (BitVec.ofNat 64 (w ||| ri <<< 8 ||| ro <<< 9)).extractLsb' 0 8 = BitVec.ofNat 8 w := by
    apply BitVec.eq_of_getLsbD_eq
    intro j hj
    have hj64 : j < 64 := by omega
    rw [BitVec.getLsbD_extractLsb', BitVec.getLsbD_ofNat, BitVec.getLsbD_ofNat, zero_add, hbit, if_pos hj]
    simp [hj64]
  have hin : (BitVec.ofNat 64 (w ||| ri <<< 8 ||| ro <<< 9)).getLsbD 8 = decide (ri = 1) := by
    rw [BitVec.getLsbD_ofNat, hbit]
    simp
  have hout : (BitVec.ofNat 64 (w ||| ri <<< 8 ||| ro <<< 9)).getLsbD 9 = decide (ro = 1) := by
    rw [BitVec.getLsbD_ofNat, hbit]
    interval_cases ro <;> simp
  rw [cfgWrite, hwidth, hin, hout]

/-- Settles O58: four writes, each of which stores its operand whatever the sequencer does. -/
theorem configWritesThePendingConfiguration : Obligations.ConfigWritesThePendingConfiguration := by
  intro s fuel w p i x ri ro hpow hwf
  simp only [HostOp.wellFormed, Bool.and_eq_true, decide_eq_true_eq] at hwf
  obtain ⟨⟨⟨⟨⟨hw, -⟩, -⟩, -⟩, hri⟩, hro⟩ := hwf
  refine ⟨afterWrite .xorout x (afterWrite .init i (afterWrite .poly p
    (afterWrite .cfg (w ||| ri <<< 8 ||| ro <<< 9) s))), ?_, by simp, ?_⟩
  · rw [runProgram, List.flatMap_singleton, expand, runHost_write_cons (r := .cfg) hpow rfl nofun,
      runHost_write_cons (r := .poly) (by simpa using hpow) rfl nofun,
      runHost_write_cons (r := .init) (by simpa using hpow) rfl nofun,
      runHost_write_cons (r := .xorout) (by simpa using hpow) rfl nofun, runHost]
  · rw [afterWrite_xorout_pending, afterWrite_init_pending, afterWrite_poly_pending, afterWrite_cfg_pending,
      cfgWrite_cfg_data hw hri hro]

/-! ## The window and the byte lanes (R6, R61, R67) -/

theorem byteLane_getLsbD (w : Word) (k : Nat) {j : Nat} (hj : j < 8) :
    (byteLane w k).getLsbD j = w.getLsbD (8 * k + j) := by
  simp [byteLane, hj]

/-- Bit j of the value is bit j mod 8 of lane j / 8. -/
theorem wordOfLanes_getLsbD (lanes : List Byte) (j : Nat) :
    (wordOfLanes lanes).getLsbD j = (decide (j < 64) && (lanes.getD (j / 8) 0).getLsbD (j % 8)) := by
  induction lanes generalizing j with
  | nil => simp [wordOfLanes]
  | cons b rest ih =>
    rw [wordOfLanes, BitVec.getLsbD_or, BitVec.getLsbD_shiftLeft, BitVec.getLsbD_setWidth, ih]
    by_cases hj : j < 8
    · simp [hj, Nat.div_eq_of_lt hj, Nat.mod_eq_of_lt hj]
    · have hlane : j / 8 = (j - 8) / 8 + 1 := by omega
      have hbit : (j - 8) % 8 = j % 8 := by omega
      have hlt : j < 64 → j - 8 < 64 := by omega
      rw [hlane, List.getD_cons_succ, hbit, BitVec.getLsbD_of_ge b j (not_lt.1 hj)]
      by_cases h64 : j < 64 <;> simp [hj, h64, hlt]

theorem wordOfLanes_byteLanes (w : Word) : wordOfLanes (byteLanes w) = w := by
  apply BitVec.eq_of_getLsbD_eq
  intro j hj
  have hk : j / 8 < 8 := by omega
  have hlane : (byteLanes w).getD (j / 8) 0 = byteLane w (j / 8) := by simp [byteLanes, hk]
  rw [wordOfLanes_getLsbD, hlane, byteLane_getLsbD w _ (Nat.mod_lt j (by decide)), Nat.div_add_mod]
  simp [hj]

theorem offsetOf_addressOf (a : BitVec 12) : offsetOf (addressOf a) = some a := by
  have hin : Config.base ≤ addressOf a ∧ addressOf a < Config.base + 0x1000 := by
    have := a.isLt
    unfold addressOf
    omega
  rw [offsetOf, if_pos hin, addressOf, Nat.add_sub_cancel_left, BitVec.ofNat_toNat, BitVec.setWidth_eq]

theorem offsetOf_eq_none_iff (x : Nat) : offsetOf x = none ↔ x < Config.base ∨ Config.base + 0x1000 ≤ x := by
  unfold offsetOf
  split
  next hin => simp only [reduceCtorEq, false_iff]; omega
  next hout => simp only [true_iff]; omega

/-- Settles O60: the lanes bit by bit, the window in arithmetic. -/
theorem windowAndByteLanesOfTheBlock : Obligations.WindowAndByteLanesOfTheBlock :=
  ⟨fun w => ⟨fun k _ _ hj => byteLane_getLsbD w k hj, wordOfLanes_byteLanes w⟩, Nat.mul_mod_right _ _,
    offsetOf_addressOf, offsetOf_eq_none_iff⟩

end Sys2Proof.Machine
end
